-- ==== Sys2Proof/Word.lean ====
section
/-!
DEFINITION. The word and byte types of the RSA-GKC block (spec/20_memory.md R71, R72, R74).
-/

namespace Sys2Proof

/-- The 32 bits of one host access, and one word of a big-integer register. -/
abbrev Word := BitVec 32

/-- One byte of a buffer. -/
abbrev Byte := BitVec 8

end Sys2Proof
end

