-- ==== Sys2Proof/Syntax.lean ====
section
/-!
DEFINITION. The commands of the block: one constructor for each row of spec/opcode_table.json
(spec/30_encoding.md Table T30.2). A command has no operand field (R100, R105): every operand is in a
register or a buffer.
-/

namespace Sys2Proof

/-- The sixteen commands. -/
inductive Instr where
  /-- OP 0x0 (R240). -/
  | nop
  /-- OP 0x1 (R135). -/
  | egcd
  /-- OP 0x2 (R166). -/
  | keygen
  /-- OP 0x3 (R180). -/
  | derive
  /-- OP 0x4 (R201). -/
  | encode
  /-- OP 0x5 (R210). -/
  | decode
  /-- OP 0x6, reserved (R242). -/
  | reserved6
  /-- OP 0x7, reserved (R242). -/
  | reserved7
  /-- OP 0x8, reserved (R242). -/
  | reserved8
  /-- OP 0x9, reserved (R242). -/
  | reserved9
  /-- OP 0xA, reserved (R242). -/
  | reservedA
  /-- OP 0xB, reserved (R242). -/
  | reservedB
  /-- OP 0xC, reserved (R242). -/
  | reservedC
  /-- OP 0xD, reserved (R242). -/
  | reservedD
  /-- OP 0xE, reserved (R242). -/
  | reservedE
  /-- OP 0xF (R241). -/
  | sreset
deriving DecidableEq, Repr

end Sys2Proof
end

