-- ==== Sys2Proof/Decode.lean ====
section
/-!
DEFINITION. The command word (spec/30_encoding.md R100, R102, R103, R104): the decoder, total on every
word, and after it the encoder, both from Table T30.2.
-/

namespace Sys2Proof

/-- The command of an OP field, given as its bits 3, 2, 1, 0 (Table T30.2, row by row). -/
def decodeOp : Bool → Bool → Bool → Bool → Instr
  | false, false, false, false => .nop
  | false, false, false, true => .egcd
  | false, false, true, false => .keygen
  | false, false, true, true => .derive
  | false, true, false, false => .encode
  | false, true, false, true => .decode
  | false, true, true, false => .reserved6
  | false, true, true, true => .reserved7
  | true, false, false, false => .reserved8
  | true, false, false, true => .reserved9
  | true, false, true, false => .reservedA
  | true, false, true, true => .reservedB
  | true, true, false, false => .reservedC
  | true, true, false, true => .reservedD
  | true, true, true, false => .reservedE
  | true, true, true, true => .sreset

/-- The command of a word: OP = word[3:0], and word[31:4] is ignored (R100). Every word is a command
(R102: all 16 values are listed). -/
def decode (w : Word) : Instr :=
  decodeOp (w.getLsbD 3) (w.getLsbD 2) (w.getLsbD 1) (w.getLsbD 0)

/-- Why a bit string is no command. -/
inductive DecodeReject where
  /-- A command is exactly one 32-bit word (R104): a longer string of bits is none. -/
  | notOneWord
deriving DecidableEq, Repr

/-- The 32-bit word whose low `nbits` bits are those of `w`, the bits above them zero. -/
def commandWord (nbits w : Nat) : Word := BitVec.ofNat 32 (w % 2 ^ nbits)

/-- Decoding a string of `nbits` bits, numbered from bit 0 of the word. -/
def decodeBits (nbits w : Nat) : Except DecodeReject Instr :=
  if nbits ≤ 32 then .ok (decode (commandWord nbits w)) else .error .notOneWord

/-- The instruction that the decoder reads from an opcode-table row's word. -/
def decodeTableWord (nbits w : Nat) : Option Instr := (decodeBits nbits w).toOption

/-- The OP value of a command (Table T30.2). -/
def Instr.op : Instr → BitVec 4
  | .nop => 0x0#4
  | .egcd => 0x1#4
  | .keygen => 0x2#4
  | .derive => 0x3#4
  | .encode => 0x4#4
  | .decode => 0x5#4
  | .reserved6 => 0x6#4
  | .reserved7 => 0x7#4
  | .reserved8 => 0x8#4
  | .reserved9 => 0x9#4
  | .reservedA => 0xA#4
  | .reservedB => 0xB#4
  | .reservedC => 0xC#4
  | .reservedD => 0xD#4
  | .reservedE => 0xE#4
  | .sreset => 0xF#4

/-- The command word of an instruction: OP in [3:0], and 0 in [31:4] ("software should write 0",
Table T30.1). -/
def encode (i : Instr) : Word := i.op.setWidth 32

end Sys2Proof
end

