-- ==== Sys2Proof/Config.lean ====
section
/-!
DEFINITION. What an implementation fixes (spec/00_scope.md R5, R9, R10), and the free values: what the
spec leaves without a law. No step changes a `Config`; it is held in the state, so that a statement
over every state is a statement over every legal block (notes/assumptions/1.md).
-/

namespace Sys2Proof

/-- The three parameters that the spec leaves OPEN (spec/92_eei_decisions.md D2, D24, D5). -/
structure Config where
  /-- KEY_BITS, the symbol K (R5): the multiples of 64 from 64 to 4096. -/
  keyBits : Nat
  /-- KG_MAX_RETRIES (R9): `none` is UNBOUNDED. -/
  maxRetries : Option Nat
  /-- BASE (R10): the byte address of the window, a multiple of 0x4000. -/
  base : Nat
deriving DecidableEq, Repr

/-- The default block: K = 2048 (R5) and UNBOUNDED retries (R9). BASE has no default in the spec:
DESIGN CHOICE 0 (notes/assumptions/1.md). -/
def Config.standard : Config := { keyBits := 2048, maxRetries := none, base := 0 }

/-- FREE VALUE: what a host read of a destination of the executing command returns in the busy window
(spec/70_reset_and_hazards.md R312: "a draw under no law"). Applied to the state's counter `draws`
(notes/assumptions/5.md). -/
opaque Config.freeWord : Nat → Word

/-- FREE VALUE: what a host read of a buffer byte with a clear written mark returns (spec/10_state.md
R52: "a draw, with no law"). Applied to the counter `draws` and the byte lane
(notes/assumptions/5.md). -/
opaque Config.freeByte : Nat → Nat → Byte

/-- FREE VALUE: the totient that KEYGEN computes when (p−1)(q−1) is negative, which the spec does not
state: R170 takes p, q ≥ 2, and no check of R164 rejects 0. Applied to p and q
(notes/assumptions/7.md). -/
opaque Config.freeTotient : Nat → Nat → Nat

end Sys2Proof
end

