-- ==== Sys2Proof/Machine/Params.lean ====
section
/-!
DEFINITION. The sizes that follow from KEY_BITS, and the constants of the block
(spec/00_scope.md R6, R7, R8; spec/10_state.md R22).
-/

namespace Sys2Proof

/-- BW = K + 32, the width of every big-integer register (R6). -/
def Config.bw (c : Config) : Nat := c.keyBits + 32

/-- NW = K/32 + 1, the number of 32-bit words of a big-integer register (R6). -/
def Config.nw (c : Config) : Nat := c.keyBits / 32 + 1

/-- D = K/4, the digit capacity of a padded block (R7: DCAP). -/
def Config.dcap (c : Config) : Nat := c.keyBits / 4

/-- LMAX = floor((D − 9)/3), the longest message ENCODE accepts (R7, R202). -/
def Config.lmax (c : Config) : Nat := (c.dcap - 9) / 3

/-- K/64, the number of random words of one prime candidate (spec/41_keyderive.md R163). -/
def Config.candWords (c : Config) : Nat := c.keyBits / 64

/-- 2^(K/2+1), the bound on a prime answer (spec/41_keyderive.md R164). -/
def Config.primeBound (c : Config) : Nat := 2 ^ (c.keyBits / 2 + 1)

/-- The number of implemented words of MSG: ceil(LMAX/4) (spec/10_state.md R48). -/
def Config.msgWords (c : Config) : Nat := (c.lmax + 3) / 4

/-- The number of implemented words of BLK: D/4 (spec/10_state.md R49). -/
def Config.blkWords (c : Config) : Nat := c.dcap / 4

/-- E_PUB = 65537 (R8). -/
def ePub : Nat := 65537

/-- The constant of the ID register (spec/10_state.md R22). -/
def idWord : Word := 0x52534101#32

/-- The window size, 16 KiB (spec/10_state.md R21). -/
def windowSize : Nat := 0x4000

end Sys2Proof
end

