-- ==== Sys2Proof/Machine/Types.lean ====
section
/-!
DEFINITION. The data types of the machine: registers and buffers by name, bus accesses and host
programs, the turns of the agents, the controller state with its latches, and the error causes.
-/

namespace Sys2Proof.Machine

/-- A big-integer register: its 32-bit words, word 0 the least significant (spec/20_memory.md R71). -/
abbrev BigReg := List Word

/-- The bytes of MSG and BLK: (window offset, byte) pairs with strictly rising offsets. A byte is
listed exactly when its written mark is set (spec/10_state.md R52; notes/assumptions/8.md). -/
abbrev Memory := List Host.Cell

/-- The eleven big-integer registers (spec/10_state.md R39). -/
inductive BigName where
  | A | B | X | Y | G | P | Q | N | PHI | D | E
deriving DecidableEq, Repr

/-- The two buffers (spec/10_state.md R48, R49). -/
inductive Buf where
  | msg | blk
deriving DecidableEq, Repr

/-- The number of bytes of a buffer (spec/10_state.md R48, R49). -/
def Buf.size (c : Config) : Buf → Nat
  | .msg => c.lmax
  | .blk => c.dcap

/-- What stands at an implemented word of the window (spec/10_state.md Table T10.1). -/
inductive Loc where
  | id | param | cmd | status | irqEn | irqStat | msgLen | blkLen | errPos | iterCnt | retryCnt
  /-- Word `i` of a big-integer register. -/
  | big (r : BigName) (i : Nat)
  /-- Word `j` of a buffer. -/
  | buf (b : Buf) (j : Nat)
deriving DecidableEq, Repr

/-- One bus access of the host at a byte address of its address space, with the size in bits and, for
a write, the byte strobes (spec/20_memory.md R74, R75). -/
inductive Access where
  | read (addr : Nat) (size : Nat)
  | write (addr : Nat) (size : Nat) (strobes : BitVec 4) (data : Word)
deriving DecidableEq, Repr

/-- The block's response to one access: OKAY or ERROR, and the value of a read (spec/20_memory.md
R74). -/
structure Response where
  okay : Bool
  value : Option Word
deriving DecidableEq, Repr

/-- One item of a host program (spec/30_encoding.md R108): an access; the loop POLL (R107); or waiting
for irq = 1 (spec/70_reset_and_hazards.md R314). -/
inductive HostOp where
  | access (a : Access)
  | poll
  | waitIrq
deriving DecidableEq, Repr

/-- One line of a host program in the syntax of spec/30_encoding.md R106 and R107. Offsets are window
offsets. -/
inductive Pseudo where
  /-- `WR <reg>[+<k>], <value32>`. -/
  | wr (off : Nat) (v : Word)
  /-- `RD <reg>[+<k>]`. -/
  | rd (off : Nat)
  /-- `NOP`, `EGCD`, `KEYGEN`, `DERIVE`, `ENCODE`, `DECODE`, `SRESET`. -/
  | command (i : Instr)
  | wrBig (r : BigName) (v : Nat)
  | rdBig (r : BigName)
  | wrBytes (b : Buf) (bs : List Byte)
  /-- `WRDIGITS BLK, "<digits>"`, the digits as numbers 0 to 9. -/
  | wrDigits (ds : List Nat)
  | rdBytes (b : Buf) (m : Nat)
  | poll
  /-- Waiting for irq = 1, with no bus access (spec/70_reset_and_hazards.md R314). -/
  | waitIrq
  | ack
deriving DecidableEq, Repr

/-- What happens next among the agents (spec/00_scope.md R4; notes/assumptions/2.md). The order of
host accesses, controller steps and answers is open (spec/20_memory.md R83, spec/60_exceptions.md
R265), so a state holds it as data. -/
inductive Turn where
  /-- The host makes its next bus operation. -/
  | host
  /-- The controller takes its next step. -/
  | controller
  /-- A host access and a controller step in the same cycle, ordered as the flag says (R265). -/
  | together (hostFirst : Bool)
  /-- The random source answers request number `tag` with a word (spec/41_keyderive.md R160). -/
  | randomAnswer (tag : Nat) (w : Word)
  /-- The prime service answers request number `tag` with (err, r) (spec/41_keyderive.md R162). -/
  | primeAnswer (tag : Nat) (err : Bool) (r : Nat)
  /-- The reset input is asserted (spec/70_reset_and_hazards.md R300). -/
  | assertReset
  /-- The reset input is released (R300). -/
  | releaseReset
deriving DecidableEq, Repr

/-- The quadruple (x, y, g, n) of EGCD (spec/00_scope.md R16). -/
structure Bezout where
  x : Int
  y : Int
  g : Nat
  n : Nat
deriving DecidableEq, Repr

/-- Which command the key derivation belongs to; KEYGEN with its internal retry count r
(spec/41_keyderive.md R166, R173). -/
inductive KeyCmd where
  | keygen (retries : Nat)
  | derive
deriving DecidableEq, Repr

/-- The controller state (spec/10_state.md Table T10.4), each value with the latches that R51 gives
the executing command there. -/
inductive Ctrl where
  | idle
  | egRun
  /-- The candidate words drawn so far, first drawn first. -/
  | kgDrawP (retries : Nat) (words : List Word)
  /-- The candidate sent to the prime service. -/
  | kgPrimeP (retries : Nat) (cand : Nat)
  | kgDrawQ (retries : Nat) (p : Nat) (words : List Word)
  | kgPrimeQ (retries : Nat) (p : Nat) (cand : Nat)
  | dvCheck
  | kgArith (cmd : KeyCmd) (p q : Nat)
  | kgEgcd (cmd : KeyCmd) (n phi : Nat)
  | kgCheck (cmd : KeyCmd) (n phi : Nat) (t : Bezout)
  | kgNorm (cmd : KeyCmd) (n phi : Nat) (d : Int)
  | kgCommit (cmd : KeyCmd) (n d : Nat)
  /-- `none` before the length check; then the filler digits drawn so far, as ASCII bytes. -/
  | enRun (filler : Option (List Byte))
  | deRun
deriving DecidableEq, Repr

/-- A pending request on a service port (spec/10_state.md R51). -/
inductive Request where
  | randomWord
  | nextPrime (cand : Nat)
deriving DecidableEq, Repr

/-- The error causes: the rows of spec/60_exceptions.md Table T60.1 but for NONE. -/
inductive ErrCause where
  | illegalCmd
  | lengthExceeded
  | badLength | nonDigit | noDelimiter | badDelimiter | truncatedGroup | codeRange
  | notCoprime | retryLimit
  | pLt2 | qLt2 | nOverflow
  | serviceError | belowCandidate | outOfRange
  | arithOverflow
deriving DecidableEq, Repr

end Sys2Proof.Machine
end

