-- ==== Sys2Proof/WellFormed.lean ====
section
/-!
DEFINITION. Well-formedness: the legal parameters, the legal lines of a host program, and the
commands. A command has no operand, so each of the sixteen is well formed.
-/

namespace Sys2Proof

/-- K is a multiple of 64 (spec/00_scope.md R5). -/
def Config.keyBitsWhole (c : Config) : Bool := c.keyBits % 64 == 0

/-- K is at least 64 and at most 4096 (spec/00_scope.md R5). -/
def Config.keyBitsInRange (c : Config) : Bool := 64 ≤ c.keyBits && c.keyBits ≤ 4096

/-- BASE is a multiple of 0x4000 (spec/00_scope.md R10). -/
def Config.baseAligned (c : Config) : Bool := c.base % 0x4000 == 0

/-- The legal parameters of a block. -/
def Config.wf (c : Config) : Bool := c.keyBitsWhole && c.keyBitsInRange && c.baseAligned

/-- A command is well formed when its word is its OP value and nothing else: bits [31:4] are 0, as
software should write them (spec/30_encoding.md Table T30.1). -/
def Instr.wf (i : Instr) : Bool := Sys2Proof.encode i &&& 0xFFFFFFF0#32 == 0#32

/-- A reserved opcode has no mnemonic in the host program's syntax (spec/30_encoding.md R107). -/
def Instr.reserved : Instr → Bool
  | .nop | .egcd | .keygen | .derive | .encode | .decode | .sreset => false
  | .reserved6 | .reserved7 | .reserved8 | .reserved9 | .reservedA
  | .reservedB | .reservedC | .reservedD | .reservedE => true

namespace Machine

/-- A line of a host program that names an offset of the window, a value that fits the register, bytes
that fit the buffer, or digits 0 to 9. DESIGN CHOICE: R107 bounds neither v in WRBIG nor m in WRBYTES,
WRDIGITS and RDBYTES, and the bounds are the model's. Safe: no meaning uses this check, and
`Pseudo.expand` takes every line (notes/assumptions/20.md). -/
def Pseudo.wf (c : Config) : Pseudo → Bool
  | .wr off _ => off < windowSize
  | .rd off => off < windowSize
  | .command i => !i.reserved
  | .wrBig _ v => v < 2 ^ c.bw
  | .rdBig _ => true
  | .wrBytes b bs => bs.length ≤ b.size c
  | .wrDigits ds => ds.length ≤ c.dcap && ds.all (· < 10)
  | .rdBytes b m => m ≤ b.size c
  | .poll => true
  | .waitIrq => true
  | .ack => true

end Machine
end Sys2Proof
end

