-- ==== Sys2Proof/Machine/Operands.lean ====
section
/-!
DEFINITION. Operand forms: the value of a big-integer register and its words, two's complement,
digit characters, the byte lanes of a word, and the map of the window
(spec/00_scope.md R11-R15; spec/10_state.md Table T10.1; spec/20_memory.md R71, R72, R76).
-/

namespace Sys2Proof.Machine

/-! ## Big-integer registers -/

/-- The unsigned value of a register: the sum of word_i · 2^(32·i) (spec/20_memory.md R71). -/
def BigReg.value : BigReg → Nat
  | [] => 0
  | w :: ws => w.toNat + 2 ^ 32 * BigReg.value ws

/-- The `k` words of a value, word 0 first (spec/20_memory.md R71). -/
def wordsOf : Nat → Nat → BigReg
  | 0, _ => []
  | k + 1, v => BitVec.ofNat 32 v :: wordsOf k (v / 2 ^ 32)

/-- twos_BW(v) = v mod 2^BW (spec/00_scope.md R12). -/
def twos (bw : Nat) (v : Int) : Nat := (v % (2 : Int) ^ bw).toNat

/-- sval_BW(u): u − 2^BW if u[BW−1] = 1, and otherwise u (spec/00_scope.md R12). -/
def sval (bw : Nat) (u : Nat) : Int := if u.testBit (bw - 1) then (u : Int) - (2 : Int) ^ bw else u

/-- −2^(BW−1) ≤ v < 2^(BW−1): v has a BW-bit two's-complement form (spec/00_scope.md R12). -/
def fitsSigned (bw : Nat) (v : Int) : Bool :=
  decide (-(2 : Int) ^ (bw - 1) ≤ v) && decide (v < (2 : Int) ^ (bw - 1))

/-! ## Digits (spec/00_scope.md R15) -/

/-- ch(k) = 0x30 + k. -/
def chr (k : Nat) : Byte := BitVec.ofNat 8 (0x30 + k)

/-- isdig(c): 0x30 ≤ c ≤ 0x39. -/
def isDig (c : Byte) : Bool := 0x30 ≤ c.toNat && c.toNat ≤ 0x39

/-- dig(c) = c − 0x30. -/
def dig (c : Byte) : Nat := c.toNat - 0x30

/-- dec3(v): v as three digits. -/
def dec3 (v : Nat) : List Byte := [chr (v / 100), chr (v / 10 % 10), chr (v % 10)]

/-! ## Byte lanes (spec/20_memory.md R72) -/

/-- Bits [8·lane+7 : 8·lane] of a word. -/
def laneByte (w : Word) (lane : Nat) : Byte := w.extractLsb' (8 * lane) 8

/-- The word with the given bytes in lanes 0, 1, 2, 3. -/
def wordOfLanes (b0 b1 b2 b3 : Byte) : Word := b3 ++ b2 ++ b1 ++ b0

/-! ## The window (spec/10_state.md Table T10.1) -/

/-- The window offset of byte 0 of a buffer. -/
def Buf.offset : Buf → Nat
  | .msg => 0x3000
  | .blk => 0x3400

/-- The number of implemented words of a buffer (spec/10_state.md R48, R49). -/
def Buf.words (c : Config) : Buf → Nat
  | .msg => c.msgWords
  | .blk => c.blkWords

/-- The window offset of word 0 of a big-integer register. -/
def BigName.offset : BigName → Nat
  | .A => 0x0400
  | .B => 0x0800
  | .X => 0x0C00
  | .Y => 0x1000
  | .G => 0x1400
  | .P => 0x1800
  | .Q => 0x1C00
  | .N => 0x2000
  | .PHI => 0x2400
  | .D => 0x2800
  | .E => 0x2C00

/-- The window offset of a location. -/
def Loc.offset : Loc → Nat
  | .id => 0x000
  | .param => 0x004
  | .cmd => 0x008
  | .status => 0x00C
  | .irqEn => 0x010
  | .irqStat => 0x014
  | .msgLen => 0x018
  | .blkLen => 0x01C
  | .errPos => 0x020
  | .iterCnt => 0x024
  | .retryCnt => 0x028
  | .big r i => r.offset + 4 * i
  | .buf b j => b.offset + 4 * j

/-- The control register at word `i` of the first 0x400 bytes; words 11 to 255 are reserved. -/
def controlAt : Nat → Option Loc
  | 0 => some .id
  | 1 => some .param
  | 2 => some .cmd
  | 3 => some .status
  | 4 => some .irqEn
  | 5 => some .irqStat
  | 6 => some .msgLen
  | 7 => some .blkLen
  | 8 => some .errPos
  | 9 => some .iterCnt
  | 10 => some .retryCnt
  | _ => none

/-- The big-integer register of a 0x400-byte window. -/
def bigAt : Nat → Option BigName
  | 1 => some .A
  | 2 => some .B
  | 3 => some .X
  | 4 => some .Y
  | 5 => some .G
  | 6 => some .P
  | 7 => some .Q
  | 8 => some .N
  | 9 => some .PHI
  | 10 => some .D
  | 11 => some .E
  | _ => none

/-- The buffer of a 0x400-byte window. -/
def bufAt : Nat → Option Buf
  | 12 => some .msg
  | 13 => some .blk
  | _ => none

/-- What stands at the word at an aligned offset of the window; `none` is a reserved location
(spec/20_memory.md R76). -/
def locate (c : Config) (off : Nat) : Option Loc :=
  let i := off % 0x400 / 4
  if off / 0x400 = 0 then controlAt i
  else match bigAt (off / 0x400), bufAt (off / 0x400) with
    | some r, _ => if i < c.nw then some (.big r i) else none
    | none, some b => if i < b.words c then some (.buf b i) else none
    | none, none => none

/-- The host may write the register (spec/10_state.md Table T10.3). -/
def BigName.hostWritable : BigName → Bool
  | .A | .B | .P | .Q => true
  | .X | .Y | .G | .N | .PHI | .D | .E => false

/-! ## Error causes (spec/60_exceptions.md Table T60.1) -/

/-- The error code of a cause. -/
def ErrCause.code : ErrCause → BitVec 4
  | .illegalCmd => 1
  | .lengthExceeded => 2
  | .badLength | .nonDigit | .noDelimiter | .badDelimiter | .truncatedGroup | .codeRange => 3
  | .notCoprime | .retryLimit => 4
  | .pLt2 | .qLt2 | .nOverflow => 5
  | .serviceError | .belowCandidate | .outOfRange => 6
  | .arithOverflow => 7

/-- The sub-cause of a cause. -/
def ErrCause.sub : ErrCause → BitVec 4
  | .illegalCmd | .lengthExceeded | .arithOverflow => 0
  | .badLength => 1
  | .nonDigit => 2
  | .noDelimiter => 3
  | .badDelimiter => 4
  | .truncatedGroup => 5
  | .codeRange => 6
  | .notCoprime => 1
  | .retryLimit => 2
  | .pLt2 => 1
  | .qLt2 => 2
  | .nOverflow => 3
  | .serviceError => 1
  | .belowCandidate => 2
  | .outOfRange => 3

end Sys2Proof.Machine
end

