-- ==== Sys2Proof/Machine/State.lean ====
section
/-!
DEFINITION. The state of the block and of the agents around it, as plain data, and the state right
after reset (spec/10_state.md Table T10.6).
-/

namespace Sys2Proof.Machine

/-- Why a step stops with a fault. -/
inductive Fault where
  /-- A command reads a buffer byte whose written mark is clear: the spec's model fault UninitRead
  (spec/10_state.md R52, spec/60_exceptions.md R269). Raised by the controller steps of ENCODE and
  DECODE only. Safe: claims about such programs become unprovable. The argument is the byte's window
  offset. -/
  | uninitRead (off : Nat)
deriving DecidableEq, Repr

/-- Why a step is refused. -/
inductive Refusal where
  /-- The instruction has no meaning yet. Raised by an arm of `exec` only. Safe. -/
  | notModelled (mnemonic : String)
  /-- A host access outside the block's window, which the platform decodes and the spec does not
  describe (spec/20_memory.md R76). Raised by the host's turn only. Safe. -/
  | outsideWindow
  /-- A host access while the reset input is asserted: the platform must not issue any
  (spec/70_reset_and_hazards.md R300). Raised by the host's turn only. Safe. -/
  | accessInReset
deriving DecidableEq, Repr

structure State where
  /-- The parameters of the block; no step changes them (spec/00_scope.md R5, R9, R10). -/
  cfg : Config
  /-- The controller state with its latches (spec/10_state.md R50, R51). -/
  ctrl : Ctrl
  /-- CMD.LAST_OP (R24). -/
  lastOp : BitVec 4
  /-- STATUS.DONE (R27). -/
  done : Bool
  /-- STATUS.ERR (R28). -/
  err : Bool
  /-- STATUS.KEYVALID (R29). -/
  keyValid : Bool
  /-- STATUS.ERR_CODE (R30). -/
  errCode : BitVec 4
  /-- STATUS.SUBCAUSE (R30). -/
  subcause : BitVec 4
  /-- STATUS.REJ (R31). -/
  rej : Bool
  /-- STATUS.WIGN (R31). -/
  wign : Bool
  /-- STATUS.BUSERR (R31). -/
  busErr : Bool
  /-- IRQ_EN.DONE_IE (R32). -/
  doneIE : Bool
  /-- IRQ_EN.ERR_IE (R32). -/
  errIE : Bool
  /-- IRQ_STAT.DONE_IP (R33). -/
  doneIP : Bool
  /-- IRQ_STAT.ERR_IP (R33). -/
  errIP : Bool
  /-- MSG_LEN[15:0] (R34). -/
  msgLen : BitVec 16
  /-- BLK_LEN[15:0] (R35). -/
  blkLen : BitVec 16
  /-- ERR_POS[15:0] (R36). -/
  errPos : BitVec 16
  /-- ITER_CNT (R37). -/
  iterCnt : Word
  /-- RETRY_CNT (R38). -/
  retryCnt : Word
  /-- EGCD input a (R40). -/
  A : BigReg
  /-- EGCD input b (R40). -/
  B : BigReg
  /-- Bezout coefficient x, two's complement (R41). -/
  X : BigReg
  /-- Bezout coefficient y, two's complement (R41). -/
  Y : BigReg
  /-- g = gcd(a, b) (R42). -/
  G : BigReg
  /-- Prime p (R43). -/
  P : BigReg
  /-- Prime q (R43). -/
  Q : BigReg
  /-- Modulus of the committed key (R44). -/
  N : BigReg
  /-- Totient of the current or last attempt (R45). -/
  PHI : BigReg
  /-- Private exponent of the committed key (R46). -/
  D : BigReg
  /-- The bytes of MSG and BLK whose written mark is set (R48, R49, R52). -/
  mem : Memory
  /-- The reset input is asserted (spec/70_reset_and_hazards.md R300). -/
  rst : Bool
  /-- MODEL'S OWN: the rest of the host's program, oldest first (notes/assumptions/2.md). -/
  host : List HostOp
  /-- MODEL'S OWN: which agent moves next, with the answers of the external agents
  (notes/assumptions/2.md). -/
  turns : List Turn
  /-- MODEL'S OWN: the responses the host has received, newest first (notes/assumptions/12.md). -/
  trace : List Response
  /-- MODEL'S OWN: the number of the pending or next service request (notes/assumptions/6.md). -/
  reqId : Nat
  /-- MODEL'S OWN: the counter of free values used (notes/assumptions/5.md). -/
  draws : Nat
deriving DecidableEq, Repr

/-- The block with parameters `c` right after hardware reset (spec/10_state.md Table T10.6;
spec/70_reset_and_hazards.md R300), with no program loaded and no turn planned. -/
def State.resetOf (c : Config) : State where
  cfg := c
  ctrl := .idle
  lastOp := 0
  done := false
  err := false
  keyValid := false
  errCode := 0
  subcause := 0
  rej := false
  wign := false
  busErr := false
  doneIE := false
  errIE := false
  doneIP := false
  errIP := false
  msgLen := 0
  blkLen := 0
  errPos := 0
  iterCnt := 0
  retryCnt := 0
  A := List.replicate c.nw 0
  B := List.replicate c.nw 0
  X := List.replicate c.nw 0
  Y := List.replicate c.nw 0
  G := List.replicate c.nw 0
  P := List.replicate c.nw 0
  Q := List.replicate c.nw 0
  N := List.replicate c.nw 0
  PHI := List.replicate c.nw 0
  D := List.replicate c.nw 0
  mem := []
  rst := false
  host := []
  turns := []
  trace := []
  reqId := 0
  draws := 0

/-- The machine right after reset, with the default parameters (spec/00_scope.md R5, R9). -/
def State.reset : State := State.resetOf Config.standard

end Sys2Proof.Machine
end

