-- ==== Sys2Proof/Machine/Flags.lean ====
section
/-!
DEFINITION. The status and interrupt flags: the executing command, BUSY, the pending request, the
words of the control registers, the irq line, and the effect of W1C and enable writes
(spec/10_state.md R22-R38, Table T10.2; spec/60_exceptions.md R270).
-/

namespace Sys2Proof.Machine

/-- The command that a controller state executes (spec/10_state.md Table T10.4). -/
def Ctrl.command : Ctrl → Option Instr
  | .idle => none
  | .egRun => some .egcd
  | .kgDrawP .. | .kgPrimeP .. | .kgDrawQ .. | .kgPrimeQ .. => some .keygen
  | .dvCheck => some .derive
  | .kgArith cmd .. | .kgEgcd cmd .. | .kgCheck cmd .. | .kgNorm cmd .. | .kgCommit cmd .. =>
    match cmd with
    | .keygen _ => some .keygen
    | .derive => some .derive
  | .enRun _ => some .encode
  | .deRun => some .decode

/-- STATUS.BUSY is 1 exactly when the controller state is not IDLE (R26). -/
def State.busy (s : State) : Bool :=
  match s.ctrl with
  | .idle => false
  | _ => true

/-- F = D − 9 − 3·L, the number of filler digits of the message in MSG_LEN (spec/42_codec.md R200). -/
def State.fillerLen (s : State) : Nat := s.cfg.dcap - 9 - 3 * s.msgLen.toNat

/-- The pending service request, if any (R51): a random word in KG_DRAW_P and KG_DRAW_Q, and in EN_RUN
while filler digits are missing; a next prime in KG_PRIME_P and KG_PRIME_Q. -/
def State.request (s : State) : Option Request :=
  match s.ctrl with
  | .kgDrawP .. | .kgDrawQ .. => some .randomWord
  | .kgPrimeP _ c | .kgPrimeQ _ _ c => some (.nextPrime c)
  | .enRun (some filler) => if filler.length < s.fillerLen then some .randomWord else none
  | _ => none

/-- A bit of a register word. -/
def bit (b : Bool) : BitVec 1 := BitVec.ofBool b

/-- The word that STATUS reads (Table T10.2). -/
def State.statusWord (s : State) : Word :=
  0#17 ++ bit s.busErr ++ bit s.wign ++ bit s.rej ++ s.subcause ++ s.errCode
    ++ bit s.keyValid ++ bit s.err ++ bit s.done ++ bit s.busy

/-- The word that PARAM reads: LMAX in [31:16], K in [15:0] (R23). -/
def paramWord (c : Config) : Word := BitVec.ofNat 16 c.lmax ++ BitVec.ofNat 16 c.keyBits

/-- The word that a control register reads when its value is specified (R22-R38); the multi-word
registers and the buffers have accessors of their own. -/
def State.control (s : State) : Loc → Word
  | .id => idWord
  | .param => paramWord s.cfg
  | .cmd => s.lastOp.setWidth 32
  | .status => s.statusWord
  | .irqEn => 0#30 ++ bit s.errIE ++ bit s.doneIE
  | .irqStat => 0#30 ++ bit s.errIP ++ bit s.doneIP
  | .msgLen => s.msgLen.setWidth 32
  | .blkLen => s.blkLen.setWidth 32
  | .errPos => s.errPos.setWidth 32
  | .iterCnt => s.iterCnt
  | .retryCnt => s.retryCnt
  | .big .. | .buf .. => 0

/-- The interrupt output (spec/60_exceptions.md R270). -/
def State.irq (s : State) : Bool := (s.doneIP && s.doneIE) || (s.errIP && s.errIE)

/-- A write to STATUS clears each of REJ, WIGN and BUSERR that is written with 1 (R25, R31). -/
def State.writeStatus (s : State) (v : Word) : State :=
  { s with
    rej := s.rej && !v.getLsbD 12
    wign := s.wign && !v.getLsbD 13
    busErr := s.busErr && !v.getLsbD 14 }

/-- A write to IRQ_EN (R32). -/
def State.writeIrqEn (s : State) (v : Word) : State :=
  { s with doneIE := v.getLsbD 0, errIE := v.getLsbD 1 }

/-- A write to IRQ_STAT clears each pending bit that is written with 1 (R33). -/
def State.writeIrqStat (s : State) (v : Word) : State :=
  { s with doneIP := s.doneIP && !v.getLsbD 0, errIP := s.errIP && !v.getLsbD 1 }

/-- The controller can take a step without an answer from outside: it is busy, has no request pending,
and the reset input is not asserted. -/
def State.controllerReady (s : State) : Bool := s.busy && s.request.isNone && !s.rst

end Sys2Proof.Machine
end

