-- ==== Sys2Proof/Machine/Ops.lean ====
section
/-!
DEFINITION. The named operations of the machine: buffer memory, big-integer registers, command issue,
success completion, error completion (what this block has in place of taking an exception), reset, and
bus responses.
-/

namespace Sys2Proof.Machine

/-- The outcome of a step of this machine. -/
abbrev Result := Host.Outcome State Fault Refusal

/-! ## Buffer memory (spec/10_state.md R48, R49, R52) -/

/-- What a byte with a clear written mark holds: no value (R52; notes/assumptions/8.md). -/
def Memory.unlisted : Option Byte := none

/-- The byte at a window offset. -/
def Memory.read : Memory → Nat → Option Byte
  | [], _ => Memory.unlisted
  | c :: m, a => if c.1 = a then some c.2 else Memory.read m a

/-- Writing a byte: its written mark is set (R52). -/
def Memory.write : Memory → Nat → Byte → Memory
  | [], a, b => [(a, b)]
  | c :: m, a, b =>
    if a < c.1 then (a, b) :: c :: m
    else if a = c.1 then (a, b) :: m
    else c :: Memory.write m a b

/-- Writing consecutive bytes from an offset up. -/
def Memory.writeBytes : Memory → Nat → List Byte → Memory
  | m, _, [] => m
  | m, a, b :: bs => Memory.write (Memory.writeBytes m (a + 1) bs) a b

/-- Clearing the written marks of `n` bytes from `a` up: their contents become unspecified. -/
def Memory.erase (m : Memory) (a n : Nat) : Memory :=
  m.filter fun c => !(decide (a ≤ c.1) && decide (c.1 < a + n))

/-- Reading `n` consecutive bytes from an offset up. -/
def Memory.readBytes (m : Memory) : Nat → Nat → List (Option Byte)
  | _, 0 => []
  | a, n + 1 => Memory.read m a :: Memory.readBytes m (a + 1) n

/-- The canonical form: offsets strictly rising. No entry can equal what an unlisted byte reads as,
since that is no value. -/
abbrev Memory.wf (m : Memory) : Prop := m.Pairwise fun c d => c.1 < d.1

/-- Byte `i` of a buffer, `none` when its written mark is clear. -/
def State.bufByte (s : State) (b : Buf) (i : Nat) : Option Byte := s.mem.read (b.offset + i)

/-- The first `n` bytes of a buffer. -/
def State.bufBytes (s : State) (b : Buf) (n : Nat) : List (Option Byte) := s.mem.readBytes b.offset n

/-- Writing bytes at the start of a buffer. -/
def State.writeBuf (s : State) (b : Buf) (bs : List Byte) : State :=
  { s with mem := s.mem.writeBytes b.offset bs }

/-! ## Big-integer registers (spec/10_state.md R39-R47) -/

/-- Reading a big-integer register. E reads 65537 in every state (R47). -/
def State.getBig (s : State) : BigName → BigReg
  | .A => s.A
  | .B => s.B
  | .X => s.X
  | .Y => s.Y
  | .G => s.G
  | .P => s.P
  | .Q => s.Q
  | .N => s.N
  | .PHI => s.PHI
  | .D => s.D
  | .E => wordsOf s.cfg.nw ePub

/-- Writing a whole big-integer register: all NW words (spec/00_scope.md R14). A write to E changes
nothing (R47). -/
def State.setBig (s : State) (r : BigName) (v : BigReg) : State :=
  match r with
  | .A => { s with A := v }
  | .B => { s with B := v }
  | .X => { s with X := v }
  | .Y => { s with Y := v }
  | .G => { s with G := v }
  | .P => { s with P := v }
  | .Q => { s with Q := v }
  | .N => { s with N := v }
  | .PHI => { s with PHI := v }
  | .D => { s with D := v }
  | .E => s

/-- The words of a value in this block's width: `R <- v` (spec/00_scope.md R14). -/
def State.reg (s : State) (v : Nat) : BigReg := wordsOf s.cfg.nw v

/-! ## Command issue and completion -/

/-- Acceptance of a command other than NOP and SRESET: LAST_OP, and the outcome fields are cleared
(spec/30_encoding.md R101; spec/10_state.md R55). -/
def State.accept (s : State) (i : Instr) : State :=
  { s with lastOp := i.op, done := false, err := false, errCode := 0, subcause := 0, errPos := 0 }

/-- Issue of a command other than SRESET: rejected while another one executes, which sets REJ and
changes nothing else (spec/30_encoding.md R101; spec/70_reset_and_hazards.md R311). -/
def issue (run : State → Result) (s : State) : Result :=
  if s.busy then .next { s with rej := true } else run s

/-- Issue of a command that the controller executes: it is accepted, BUSY becomes 1, and the
controller enters the command's first state (spec/30_encoding.md R101; Table T10.4). -/
def issueRun (i : Instr) (first : Ctrl) (s : State) : Result :=
  issue (fun s => .next { s.accept i with ctrl := first }) s

/-- Success completion (spec/60_exceptions.md R261): DONE and DONE_IP are set, ERR stays, and the
controller is IDLE. The command's results are in `s` already. -/
def complete (s : State) : State := { s with ctrl := .idle, done := true, doneIP := true }

/-- Error completion, `raise Err(code, sub, pos)` (spec/60_exceptions.md R262): the code, sub-cause
and position are recorded, ERR and ERR_IP are set, DONE stays, and the controller is IDLE. This is the
block's only "exception entry" (R266: nothing is saved beyond these fields and no control is
transferred), and there is no return from it (R267). -/
def raiseErr (c : ErrCause) (pos : Nat) (s : State) : State :=
  { s with
    ctrl := .idle
    errCode := c.code
    subcause := c.sub
    errPos := BitVec.ofNat 16 pos
    err := true
    errIP := true }

/-- Issue of a reserved opcode: accepted, then the error ILLEGAL_CMD at once; BUSY is never 1
(spec/43_control.md R242). -/
def issueReserved (i : Instr) (s : State) : Result :=
  issue (fun s => .next (raiseErr .illegalCmd 0 (s.accept i))) s

/-! ## Reset -/

/-- Every register and field at its reset value (spec/10_state.md Table T10.6). A pending service
request is withdrawn, so that its late answer carries an old number and is discarded. The buffers, the
parameters, the level of the reset input and the agents' plans stay. -/
def State.resetRegs (s : State) : State :=
  { State.resetOf s.cfg with
    mem := s.mem
    rst := s.rst
    host := s.host
    turns := s.turns
    trace := s.trace
    reqId := if s.request.isSome then s.reqId + 1 else s.reqId
    draws := s.draws }

/-- The buffers after SRESET: the one that an aborted ENCODE or DECODE was writing becomes
unspecified, with its marks cleared (spec/43_control.md R241). -/
def State.abortedMem (s : State) : Memory :=
  match s.ctrl.command with
  | some .encode => s.mem.erase Buf.blk.offset s.cfg.dcap
  | some .decode => s.mem.erase Buf.msg.offset s.cfg.lmax
  | _ => s.mem

/-- Soft reset (spec/43_control.md R241). -/
def State.softReset (s : State) : State := { s.resetRegs with mem := s.abortedMem }

/-- Hardware reset (spec/70_reset_and_hazards.md R300): as SRESET on the registers, and the contents
of both buffers are unspecified with every mark clear. -/
def State.hardReset (s : State) : State := { s.resetRegs with mem := [] }

/-! ## Bus responses (spec/20_memory.md R74, R75) -/

/-- An OKAY response, with the value of a read. -/
def State.okay (s : State) (v : Option Word) : State := { s with trace := ⟨true, v⟩ :: s.trace }

/-- An ERROR response: BUSERR is set, a read returns 0, and nothing else changes (R75). -/
def State.busError (s : State) (v : Option Word) : State :=
  { s with busErr := true, trace := ⟨false, v⟩ :: s.trace }

end Sys2Proof.Machine
end

