-- ==== Sys2Proof/Machine/Codec.lean ====
section
/-!
DEFINITION. The padding codec: ENCODE and DECODE (spec/42_codec.md R200-R216).
-/

namespace Sys2Proof.Machine

/-! ## ENCODE -/

/-- The header "100002" (R200). -/
def header : List Byte := [chr 1, chr 0, chr 0, chr 0, chr 0, chr 2]

/-- The delimiter "000" (R200). -/
def delimiter : List Byte := [chr 0, chr 0, chr 0]

/-- The filler digit of a random word: 1 + (w mod 9) (R203). -/
def fillerDigit (w : Word) : Byte := chr (1 + w.toNat % 9)

/-- The padded block of a message with the given filler (R200, R201, R204). -/
def paddedBlock (filler msg : List Byte) : List Byte :=
  header ++ filler ++ delimiter ++ msg.flatMap fun b => dec3 b.toNat

/-- A command's read of consecutive buffer bytes from window offset `off`: the bytes, or the offset of
the first one with a clear written mark (spec/10_state.md R52). -/
def commandRead (off : Nat) : List (Option Byte) → Except Nat (List Byte)
  | [] => .ok []
  | none :: _ => .error off
  | some b :: rest =>
    match commandRead (off + 1) rest with
    | .ok bs => .ok (b :: bs)
    | .error a => .error a

/-- ENCODE, OP 0x4 (R201). -/
def execEncode (s : State) : Result := issueRun .encode (.enRun none) s

/-- EN_RUN, the length check, before any word is drawn (R201, R202). -/
def encodeCheck (s : State) : State :=
  if s.cfg.lmax < s.msgLen.toNat then raiseErr .lengthExceeded 0 s
  else { s with ctrl := .enRun (some []) }

/-- EN_RUN, one filler digit from one random word (R203). -/
def encodeDraw (filler : List Byte) (w : Word) (s : State) : State :=
  { s with ctrl := .enRun (some (filler ++ [fillerDigit w])) }

/-- EN_RUN, once the filler is complete: the message is read, and the block and BLK_LEN are written
(R201). -/
def encodeFinish (filler : List Byte) (s : State) : Result :=
  match commandRead Buf.msg.offset (s.bufBytes .msg s.msgLen.toNat) with
  | .error a => .fault (.uninitRead a)
  | .ok msg =>
    .next (complete { s.writeBuf .blk (paddedBlock filler msg) with
      blkLen := BitVec.ofNat 16 s.cfg.dcap })

/-! ## DECODE -/

/-- How the block is found when its bytes are read in ascending order. -/
inductive DigitScan where
  /-- Every byte is a digit; the digits' values. -/
  | digits (ds : List Nat)
  /-- The first byte that is not a digit, at this index. -/
  | notDigit (j : Nat)
  /-- A byte with a clear written mark comes first, at this index. -/
  | unwritten (j : Nat)
deriving DecidableEq, Repr

/-- The NON_DIGIT check, ascending from index `j` (R210). -/
def scanDigits (j : Nat) : List (Option Byte) → DigitScan
  | [] => .digits []
  | none :: _ => .unwritten j
  | some b :: rest =>
    if isDig b then
      match scanDigits (j + 1) rest with
      | .digits ds => .digits (dig b :: ds)
      | other => other
    else .notDigit j

/-- An error of DECODE: its cause and position (R210: MAL). -/
abbrev Malformed := ErrCause × Nat

/-- The message groups from digit position `pos` on; the digits are a whole number of groups (R210). -/
def decodeGroups (pos : Nat) : List Nat → Except Malformed (List Byte)
  | a :: b :: c :: rest =>
    let v := 100 * a + 10 * b + c
    if 255 < v then .error (.codeRange, pos)
    else match decodeGroups (pos + 3) rest with
      | .ok out => .ok (BitVec.ofNat 8 v :: out)
      | .error e => .error e
  | _ => .ok []

/-- The position of the first 0 digit at position `i` or above, for the digits from `i` on; the end of
the block if there is none (R210, R213). -/
def firstZero (i : Nat) : List Nat → Nat
  | [] => i
  | d :: rest => if d = 0 then i else firstZero (i + 1) rest

/-- DECODE after the NON_DIGIT check, on the digits of the block (R210-R214). -/
def decodeDigits (ds : List Nat) : Except Malformed (List Byte) :=
  let n := ds.length
  let i := firstZero 6 (ds.drop 6)
  if n < 6 then .error (.noDelimiter, n)
  else if i = n then .error (.noDelimiter, n)
  else if n < i + 3 then .error (.noDelimiter, i)
  else if ds.getD (i + 1) 0 ≠ 0 then .error (.badDelimiter, i + 1)
  else if ds.getD (i + 2) 0 ≠ 0 then .error (.badDelimiter, i + 2)
  else
    let r := (n - (i + 3)) % 3
    if r ≠ 0 then .error (.truncatedGroup, n - r)
    else decodeGroups (i + 3) (ds.drop (i + 3))

/-- DECODE, OP 0x5 (R210). -/
def execDecode (s : State) : Result := issueRun .decode .deRun s

/-- The writes of a successful DECODE (R211). -/
def decodeWrite (msg : List Byte) (s : State) : State :=
  complete { s.writeBuf .msg msg with msgLen := BitVec.ofNat 16 msg.length }

/-- DE_RUN: every check runs before any destination is written (R210, R211). -/
def decodeRun (s : State) : Result :=
  let n := s.blkLen.toNat
  if s.cfg.dcap < n then .next (raiseErr .badLength 0 s)
  else match scanDigits 0 (s.bufBytes .blk n) with
    | .unwritten j => .fault (.uninitRead (Buf.blk.offset + j))
    | .notDigit j => .next (raiseErr .nonDigit j s)
    | .digits ds =>
      match decodeDigits ds with
      | .error (cause, pos) => .next (raiseErr cause pos s)
      | .ok msg => .next (decodeWrite msg s)

end Sys2Proof.Machine
end

