-- ==== Sys2Proof/Machine/Control.lean ====
section
/-!
DEFINITION. The control commands: NOP, SRESET and the reserved opcodes (spec/43_control.md R240-R242).
-/

namespace Sys2Proof.Machine

/-- NOP, OP 0x0 (R240): nothing; rejected like any other command while busy. -/
def execNop (s : State) : Result := issue (fun s => .next s) s

/-- SRESET, OP 0xF (R241): accepted whether the block is busy or idle. -/
def execSreset (s : State) : Result := .next s.softReset

/-- Reserved opcode 0x6 (R242). -/
def execReserved6 (s : State) : Result := issueReserved .reserved6 s

/-- Reserved opcode 0x7 (R242). -/
def execReserved7 (s : State) : Result := issueReserved .reserved7 s

/-- Reserved opcode 0x8 (R242). -/
def execReserved8 (s : State) : Result := issueReserved .reserved8 s

/-- Reserved opcode 0x9 (R242). -/
def execReserved9 (s : State) : Result := issueReserved .reserved9 s

/-- Reserved opcode 0xA (R242). -/
def execReservedA (s : State) : Result := issueReserved .reservedA s

/-- Reserved opcode 0xB (R242). -/
def execReservedB (s : State) : Result := issueReserved .reservedB s

/-- Reserved opcode 0xC (R242). -/
def execReservedC (s : State) : Result := issueReserved .reservedC s

/-- Reserved opcode 0xD (R242). -/
def execReservedD (s : State) : Result := issueReserved .reservedD s

/-- Reserved opcode 0xE (R242). -/
def execReservedE (s : State) : Result := issueReserved .reservedE s

end Sys2Proof.Machine
end

