-- ==== Sys2Proof/Machine/Egcd.lean ====
section
/-!
DEFINITION. The Extended-Euclidean GCD solver: the function EGCD and the EGCD command
(spec/40_egcd.md R130-R137).
-/

namespace Sys2Proof.Machine

/-- The recursion of R130, with at most `fuel` division steps. -/
def egcdFuel : Nat → Nat → Nat → Bezout
  | 0, a, _ => { x := 1, y := 0, g := a, n := 0 }
  | fuel + 1, a, b =>
    if b = 0 then { x := 1, y := 0, g := a, n := 0 }
    else
      let t := egcdFuel fuel b (a % b)
      { x := t.y, y := t.x - (a / b : Nat) * t.y, g := t.g, n := t.n + 1 }

/-- EGCD(a, b) of R130. The second argument strictly decreases (R131), so b steps are enough; that this
is R130's recursion is proved in Laws/Egcd.lean (notes/assumptions/17.md). -/
def egcd (a b : Nat) : Bezout := egcdFuel b a b

/-- The loop of R133, with at most `fuel` rounds, from (r0, r1, s0, s1, t0, t1, n). No meaning uses it;
it stands here to be compared with R130. -/
def egcdLoop : Nat → Nat → Nat → Int → Int → Int → Int → Nat → Bezout
  | 0, r0, _, s0, _, t0, _, n => { x := s0, y := t0, g := r0, n := n }
  | fuel + 1, r0, r1, s0, s1, t0, t1, n =>
    if r1 = 0 then { x := s0, y := t0, g := r0, n := n }
    else
      let q := r0 / r1
      egcdLoop fuel r1 (r0 - q * r1) s1 (s0 - q * s1) t1 (t0 - q * t1) (n + 1)

/-- EGCD by the loop of R133. -/
def egcdIter (a b : Nat) : Bezout := egcdLoop b a b 1 0 0 1 0

/-- The EGCD command's write of its results (R135). -/
def State.writeBezout (s : State) (t : Bezout) : State :=
  { s with
    X := s.reg (twos s.cfg.bw t.x)
    Y := s.reg (twos s.cfg.bw t.y)
    G := s.reg t.g
    iterCnt := BitVec.ofNat 32 t.n }

/-- EG_RUN: the EGCD command computes, checks and completes (R135, R137). -/
def egcdRun (s : State) : State :=
  let t := egcd s.A.value s.B.value
  if fitsSigned s.cfg.bw t.x && fitsSigned s.cfg.bw t.y then complete (s.writeBezout t)
  else raiseErr .arithOverflow 0 s

/-- EGCD, OP 0x1 (R135): issue; the controller then computes in EG_RUN. -/
def execEgcd (s : State) : Result := issueRun .egcd .egRun s

end Sys2Proof.Machine
end

