-- ==== Sys2Proof/Machine/KeyDerive.lean ====
section
/-!
DEFINITION. The key-derivation state machine: KEYGEN and DERIVE (spec/41_keyderive.md R160-R182;
spec/10_state.md Table T10.4).
-/

namespace Sys2Proof.Machine

/-! ## Issue -/

/-- At acceptance KEYVALID and RETRY_CNT are cleared (R166, R180). -/
def State.startKey (s : State) : State := { s with keyValid := false, retryCnt := 0 }

/-- KEYGEN, OP 0x2 (R166): the first request for a random word is raised. -/
def execKeygen (s : State) : Result :=
  issue (fun s => .next { (s.accept .keygen).startKey with ctrl := .kgDrawP 0 [] }) s

/-- DERIVE, OP 0x3 (R180). -/
def execDerive (s : State) : Result :=
  issue (fun s => .next { (s.accept .derive).startKey with ctrl := .dvCheck }) s

/-! ## The answers of the external agents -/

/-- KG_DRAW_P: one more word of p's candidate; the K/64th completes it (R163, R165). -/
def drawP (r : Nat) (ws : List Word) (w : Word) (s : State) : State :=
  let ws := ws ++ [w]
  if s.cfg.candWords ≤ ws.length then { s with ctrl := .kgPrimeP r (BigReg.value ws) }
  else { s with ctrl := .kgDrawP r ws }

/-- KG_DRAW_Q: one more word of q's candidate. -/
def drawQ (r p : Nat) (ws : List Word) (w : Word) (s : State) : State :=
  let ws := ws ++ [w]
  if s.cfg.candWords ≤ ws.length then { s with ctrl := .kgPrimeQ r p (BigReg.value ws) }
  else { s with ctrl := .kgDrawQ r p ws }

/-- CheckPrime(err, r, c): the three checks of a prime answer, in order (R164, R167). -/
def checkPrime (c : Config) (err : Bool) (r cand : Nat) : Option ErrCause :=
  if err then some .serviceError
  else if r < cand then some .belowCandidate
  else if c.primeBound ≤ r then some .outOfRange
  else none

/-- KG_PRIME_P: the answer for p is checked and written to P (R164, R168). -/
def primeP (r cand : Nat) (err : Bool) (p : Nat) (s : State) : State :=
  match checkPrime s.cfg err p cand with
  | some e => raiseErr e 0 s
  | none => { s with P := s.reg p, ctrl := .kgDrawQ r p [] }

/-- KG_PRIME_Q: the answer for q is checked and written to Q (R164, R168). -/
def primeQ (r p cand : Nat) (err : Bool) (q : Nat) (s : State) : State :=
  match checkPrime s.cfg err q cand with
  | some e => raiseErr e 0 s
  | none => { s with Q := s.reg q, ctrl := .kgArith (.keygen r) p q }

/-! ## The controller's own steps -/

/-- DV_CHECK: the operand checks of DERIVE, in order (R180, R181). -/
def derivCheck (s : State) : State :=
  let p := s.P.value
  let q := s.Q.value
  if p < 2 then raiseErr .pLt2 0 s
  else if q < 2 then raiseErr .qLt2 0 s
  else if 2 ^ s.cfg.bw ≤ p * q then raiseErr .nOverflow 0 s
  else { s with ctrl := .kgArith .derive p q }

/-- φ = (p−1)(q−1) (R170). When that is negative, which takes a prime service that answers 0, the spec
states no value: it is a free value of the register's width (notes/assumptions/7.md). -/
def totient (c : Config) (p q : Nat) : Nat :=
  let phi : Int := ((p : Int) - 1) * ((q : Int) - 1)
  if 0 ≤ phi then phi.toNat else Config.freeTotient p q % 2 ^ c.bw

/-- KG_ARITH: N and φ are computed and PHI is written (R169, R170). -/
def keyArith (cmd : KeyCmd) (p q : Nat) (s : State) : State :=
  let phi := totient s.cfg p q
  { s with PHI := s.reg phi, ctrl := .kgEgcd cmd (p * q) phi }

/-- KG_EGCD: EGCD(φ, E_PUB), and its step count (R171). -/
def keyEgcd (cmd : KeyCmd) (n phi : Nat) (s : State) : State :=
  let t := egcd phi ePub
  { s with iterCnt := BitVec.ofNat 32 t.n, ctrl := .kgCheck cmd n phi t }

/-- A fresh attempt of KEYGEN after `r` retries (R173). RETRY_CNT saturates (R38). -/
def keyRetry (r : Nat) (s : State) : State :=
  { s with retryCnt := BitVec.ofNat 32 (min (r + 1) 0xFFFFFFFF), ctrl := .kgDrawP (r + 1) [] }

/-- KG_CHECK: the coprimality check, and the retry of KEYGEN (R172, R173, R180). -/
def keyCheck (cmd : KeyCmd) (n phi : Nat) (t : Bezout) (s : State) : State :=
  if t.g = 1 then { s with ctrl := .kgNorm cmd n phi t.y }
  else match cmd with
    | .derive => raiseErr .notCoprime 0 s
    | .keygen r => if s.cfg.maxRetries = some r then raiseErr .retryLimit 0 s else keyRetry r s

/-- KG_NORM: one round of "while d < 0: d = d + φ" (R174). -/
def keyNorm (cmd : KeyCmd) (n phi : Nat) (d : Int) (s : State) : State :=
  if d < 0 then { s with ctrl := .kgNorm cmd n phi (d + phi) }
  else { s with ctrl := .kgCommit cmd n d.toNat }

/-- KG_COMMIT: the key is written, the work values are cleared, and the command completes (R175). -/
def keyCommit (n d : Nat) (s : State) : State :=
  complete { s with
    N := s.reg n
    D := s.reg d
    P := s.reg 0
    Q := s.reg 0
    PHI := s.reg 0
    keyValid := true }

end Sys2Proof.Machine
end

