-- ==== Sys2Proof/Machine/Dispatch.lean ====
section
/-!
DEFINITION. The issue of a command (spec/30_encoding.md R101): one arm for each command.
-/

namespace Sys2Proof.Machine

def exec (i : Instr) (s : State) : Host.Outcome State Fault Refusal :=
  match i with
  | .nop => Sys2Proof.Machine.execNop s
  | .egcd => Sys2Proof.Machine.execEgcd s
  | .keygen => Sys2Proof.Machine.execKeygen s
  | .derive => Sys2Proof.Machine.execDerive s
  | .encode => Sys2Proof.Machine.execEncode s
  | .decode => Sys2Proof.Machine.execDecode s
  | .reserved6 => Sys2Proof.Machine.execReserved6 s
  | .reserved7 => Sys2Proof.Machine.execReserved7 s
  | .reserved8 => Sys2Proof.Machine.execReserved8 s
  | .reserved9 => Sys2Proof.Machine.execReserved9 s
  | .reservedA => Sys2Proof.Machine.execReservedA s
  | .reservedB => Sys2Proof.Machine.execReservedB s
  | .reservedC => Sys2Proof.Machine.execReservedC s
  | .reservedD => Sys2Proof.Machine.execReservedD s
  | .reservedE => Sys2Proof.Machine.execReservedE s
  | .sreset => Sys2Proof.Machine.execSreset s

end Sys2Proof.Machine
end

