-- ==== Sys2Proof/Machine/HostAccess.lean ====
section
/-!
DEFINITION. Host accesses: reads and writes of the window, with the busy-window rules
(spec/20_memory.md R74-R79; spec/70_reset_and_hazards.md R310-R313).
-/

namespace Sys2Proof.Machine

/-! ## Reads -/

/-- The destinations of EGCD in the busy window (R312). -/
def egcdWrites : Loc → Bool
  | .big .X _ | .big .Y _ | .big .G _ | .iterCnt => true
  | _ => false

/-- The destinations of KEYGEN and of DERIVE in the busy window (R312). -/
def keyWrites : Loc → Bool
  | .big .P _ | .big .Q _ | .big .PHI _ | .big .N _ | .big .D _ | .iterCnt | .retryCnt => true
  | _ => false

/-- The destinations of ENCODE in the busy window (R312). -/
def encodeWrites : Loc → Bool
  | .buf .blk _ | .blkLen => true
  | _ => false

/-- The destinations of DECODE in the busy window (R312; ERR_POS is not among them: it reads 0). -/
def decodeWrites : Loc → Bool
  | .buf .msg _ | .msgLen => true
  | _ => false

/-- The locations that a command writes, as R312 lists them. -/
def writesLoc : Instr → Loc → Bool
  | .egcd => egcdWrites
  | .keygen => keyWrites
  | .derive => keyWrites
  | .encode => encodeWrites
  | .decode => decodeWrites
  | .nop | .sreset => fun _ => false
  | .reserved6 | .reserved7 | .reserved8 | .reserved9 | .reservedA
  | .reservedB | .reservedC | .reservedD | .reservedE => fun _ => false

/-- The location is a destination of the executing command (R312). -/
def State.isDestination (s : State) (l : Loc) : Bool :=
  match s.ctrl.command with
  | some i => writesLoc i l
  | none => false

/-- Byte lane `lane` of word `j` of a buffer as the host reads it: a lane beyond the buffer reads 0
(spec/10_state.md R48), a byte with a clear written mark is a free value (R52). -/
def State.readLane (s : State) (b : Buf) (j lane : Nat) : Byte :=
  let i := 4 * j + lane
  if i < b.size s.cfg then (s.bufByte b i).getD (Config.freeByte s.draws lane) else 0

/-- Word `j` of a buffer as the host reads it (spec/20_memory.md R72). -/
def State.readBufWord (s : State) (b : Buf) (j : Nat) : Word :=
  wordOfLanes (s.readLane b j 0) (s.readLane b j 1) (s.readLane b j 2) (s.readLane b j 3)

/-- Some byte of word `j` of a buffer has a clear written mark. -/
def State.unwrittenInWord (s : State) (b : Buf) (j : Nat) : Bool :=
  [0, 1, 2, 3].any fun lane =>
    decide (4 * j + lane < b.size s.cfg) && (s.bufByte b (4 * j + lane)).isNone

/-- The word that a host read of a location returns. -/
def State.readLoc (s : State) (l : Loc) : Word :=
  if s.isDestination l then Config.freeWord s.draws
  else match l with
    | .big r i => (s.getBig r).getD i 0
    | .buf b j => s.readBufWord b j
    | other => s.control other

/-- A host read of a location uses free values. -/
def State.readDraws (s : State) (l : Loc) : Bool :=
  s.isDestination l ||
  match l with
  | .buf b j => s.unwrittenInWord b j
  | _ => false

/-- The state after a host read of a location: reads change no register (R79); the model's counter of
free values advances when one was used. -/
def State.afterRead (s : State) (l : Loc) : State :=
  if s.readDraws l then { s with draws := s.draws + 1 } else s

/-! ## Writes -/

/-- A host write to an operand register or buffer: ignored in the busy window, which sets WIGN (R310). -/
def State.writeOperand (s : State) (write : State → State) : State :=
  if s.busy then { s with wign := true } else write s

/-- Writing the byte lanes `lane`, `lane + 1`, ... of word `j` of a buffer; the lanes beyond the buffer
ignore the write (spec/10_state.md R48). -/
def State.writeLane (s : State) (b : Buf) (j lane : Nat) (v : Word) : State :=
  let i := 4 * j + lane
  if i < b.size s.cfg then { s with mem := s.mem.write (b.offset + i) (laneByte v lane) } else s

/-- Writing word `j` of a buffer (spec/20_memory.md R72). -/
def State.writeBufWord (s : State) (b : Buf) (j : Nat) (v : Word) : State :=
  (((s.writeLane b j 0 v).writeLane b j 1 v).writeLane b j 2 v).writeLane b j 3 v

/-- Writing word `i` of a big-integer register (spec/20_memory.md R71). -/
def State.writeBigWord (s : State) (r : BigName) (i : Nat) (v : Word) : State :=
  s.setBig r ((s.getBig r).set i v)

/-- A host write to a location other than CMD (spec/10_state.md R22-R49; spec/20_memory.md R77). -/
def State.writeLoc (s : State) (l : Loc) (v : Word) : State :=
  match l with
  | .id | .param | .cmd | .errPos | .iterCnt | .retryCnt => s
  | .status => s.writeStatus v
  | .irqEn => s.writeIrqEn v
  | .irqStat => s.writeIrqStat v
  | .msgLen => s.writeOperand fun s => { s with msgLen := v.setWidth 16 }
  | .blkLen => s.writeOperand fun s => { s with blkLen := v.setWidth 16 }
  | .big r i => if r.hostWritable then s.writeOperand fun s => s.writeBigWord r i v else s
  | .buf b j => s.writeOperand fun s => s.writeBufWord b j v

/-- A host write to a location; a write to CMD issues a command (spec/30_encoding.md R101). -/
def writeHost (l : Loc) (v : Word) (s : State) : Result :=
  match l with
  | .cmd => exec (decode v) s
  | other => .next (s.writeLoc other v)

/-! ## Accesses (spec/20_memory.md R75) -/

/-- The location of an aligned, full-width access at a window offset; `none` gets the ERROR response. -/
def accessLoc (c : Config) (off size : Nat) (strobes : BitVec 4) : Option Loc :=
  if off % 4 = 0 ∧ size = 32 ∧ strobes = 0xF#4 then locate c off else none

/-- The address of an access. -/
def Access.addr : Access → Nat
  | .read a _ => a
  | .write a _ _ _ => a

/-- The block's handling of one access inside its window, at window offset `off`. -/
def accessAt (a : Access) (off : Nat) (s : State) : Result :=
  match a with
  | .read _ size =>
    match accessLoc s.cfg off size 0xF#4 with
    | some l => .next ((s.afterRead l).okay (some (s.readLoc l)))
    | none => .next (s.busError (some 0))
  | .write _ size strobes v =>
    match accessLoc s.cfg off size strobes with
    | some l => writeHost l v (s.okay none)
    | none => .next (s.busError none)

/-- One bus access of the host. Addresses outside the window at BASE are the platform's (R76). -/
def busAccess (a : Access) (s : State) : Result :=
  if s.rst then .refused .accessInReset
  else if s.cfg.base ≤ a.addr ∧ a.addr < s.cfg.base + windowSize then
    accessAt a (a.addr - s.cfg.base) s
  else .refused .outsideWindow

end Sys2Proof.Machine
end

