-- ==== Sys2Proof/Machine/Schedule.lean ====
section
/-!
DEFINITION. The agents' moves: the controller's steps, the answers of the external agents, the host's
operations, the reset input, and which agent moves next (spec/00_scope.md R4; spec/10_state.md R50;
spec/20_memory.md R83; spec/60_exceptions.md R265).
-/

namespace Sys2Proof.Machine

/-! ## The controller -/

/-- The controller's step from its state (spec/10_state.md Table T10.4). Where a request is pending, or
no command executes, it waits. -/
def controllerStep (s : State) : Result :=
  match s.ctrl with
  | .idle => .next s
  | .egRun => .next (egcdRun s)
  | .kgDrawP .. | .kgPrimeP .. | .kgDrawQ .. | .kgPrimeQ .. => .next s
  | .dvCheck => .next (derivCheck s)
  | .kgArith cmd p q => .next (keyArith cmd p q s)
  | .kgEgcd cmd n phi => .next (keyEgcd cmd n phi s)
  | .kgCheck cmd n phi t => .next (keyCheck cmd n phi t s)
  | .kgNorm cmd n phi d => .next (keyNorm cmd n phi d s)
  | .kgCommit _ n d => .next (keyCommit n d s)
  | .enRun none => .next (encodeCheck s)
  | .enRun (some filler) =>
    if filler.length < s.fillerLen then .next s else encodeFinish filler s
  | .deRun => decodeRun s

/-- The controller's turn: nothing moves while the reset input is asserted
(notes/assumptions/9.md). -/
def controllerTurn (s : State) : Result := if s.rst then .next s else controllerStep s

/-! ## The external agents -/

/-- The controller takes a random word for its pending request (spec/41_keyderive.md R160, R161). -/
def takeWord (w : Word) (s : State) : State :=
  match s.ctrl with
  | .kgDrawP r ws => drawP r ws w s
  | .kgDrawQ r p ws => drawQ r p ws w s
  | .enRun (some filler) => encodeDraw filler w s
  | _ => s

/-- The controller takes the answer to its pending prime request; r has BW bits
(spec/41_keyderive.md R162; notes/assumptions/18.md). -/
def takePrime (err : Bool) (r : Nat) (s : State) : State :=
  match s.ctrl with
  | .kgPrimeP n cand => primeP n cand err (r % 2 ^ s.cfg.bw) s
  | .kgPrimeQ n p cand => primeQ n p cand err (r % 2 ^ s.cfg.bw) s
  | _ => s

/-- The pending request is for a next prime. -/
def Request.isPrime : Request → Bool
  | .randomWord => false
  | .nextPrime _ => true

/-- An answer reaches the block: it is taken when the request it answers is pending, and discarded
otherwise (spec/43_control.md R241; spec/10_state.md Table T10.6). -/
def answer (tag : Nat) (prime : Bool) (take : State → State) (s : State) : State :=
  match s.request with
  | some r => if tag = s.reqId ∧ r.isPrime = prime ∧ s.rst = false then
      take { s with reqId := s.reqId + 1 } else s
  | none => s

/-! ## The host -/

/-- One round of POLL: a read of STATUS, repeated until the BUSY bit read is 0
(spec/30_encoding.md R107). -/
def pollOnce (rest : List HostOp) (s : State) : Result :=
  busAccess (.read (s.cfg.base + Loc.status.offset) 32)
    (if s.busy then s else { s with host := rest })

/-- The host's next operation. -/
def hostTurn (s : State) : Result :=
  match s.host with
  | [] => .next s
  | .access a :: rest => busAccess a { s with host := rest }
  | .poll :: rest => pollOnce rest s
  | .waitIrq :: rest => .next (if s.irq && !s.rst then { s with host := rest } else s)

/-! ## A host access and a controller step in the same cycle -/

/-- The host's next operation is a legal write to IRQ_STAT. -/
def State.hostClearsIrq (s : State) : Bool :=
  match s.host with
  | .access (.write a size strobes _) :: _ =>
    decide (s.cfg.base ≤ a) && decide (accessLoc s.cfg (a - s.cfg.base) size strobes = some .irqStat)
  | _ => false

/-- When a W1C clear of an IP bit coincides with the completion that sets it, the bit reads 1
afterwards (spec/10_state.md R33, spec/60_exceptions.md R265). `s` is the state before the cycle, `c`
after the controller's step, `t` after both. -/
def setWins (s c t : State) : State :=
  if s.hostClearsIrq && !c.busy then
    { t with doneIP := t.doneIP || c.done, errIP := t.errIP || c.err }
  else t

/-- Two moves, one after the other. -/
def andThen (r : Result) (next : State → Result) : Result :=
  match r with
  | .next s => next s
  | .fault e => .fault e
  | .refused e => .refused e

/-- A host access and a step of the running controller in the same cycle: wholly before or wholly after,
as the flag says, but that a set wins over a clear (R265; notes/assumptions/11.md). Where the controller
has no step to take, only the host moves. -/
def together (hostFirst : Bool) (s : State) : Result :=
  if !s.controllerReady then hostTurn s
  else if hostFirst then andThen (hostTurn s) controllerTurn
  else andThen (controllerTurn s) fun c => andThen (hostTurn c) fun t => .next (setWins s c t)

/-! ## Turns -/

/-- The move of one turn. -/
def takeTurn (t : Turn) (s : State) : Result :=
  match t with
  | .host => hostTurn s
  | .controller => controllerTurn s
  | .together hostFirst => together hostFirst s
  | .randomAnswer tag w => .next (answer tag false (takeWord w) s)
  | .primeAnswer tag err r => .next (answer tag true (takePrime err r) s)
  | .assertReset => .next { s with rst := true }
  | .releaseReset => .next (if s.rst then { s.hardReset with rst := false } else s)

/-- Who moves when no turn is planned: the controller while it can, then the host
(notes/assumptions/2.md). -/
def State.defaultTurn (s : State) : Turn := if s.controllerReady then .controller else .host

/-- The machine's next move: the first planned turn, or else the default one. -/
def nextMove (s : State) : Result :=
  match s.turns with
  | t :: ts => takeTurn t { s with turns := ts }
  | [] => takeTurn s.defaultTurn s

/-- A sequence of turns, stopping at the first fault or refusal. -/
def takeTurns : List Turn → State → Result
  | [], s => .next s
  | t :: ts, s => andThen (takeTurn t s) (takeTurns ts)

end Sys2Proof.Machine
end

