-- ==== Sys2Proof/Machine/HostProgram.lean ====
section
/-!
DEFINITION. Host programs: the expansion of the assembler lines and pseudo-instructions into bus
operations (spec/30_encoding.md R106, R107, R108), and loading one.
-/

namespace Sys2Proof.Machine

/-- WR(off, v): a 32-bit write at BASE + off with all strobes set (spec/20_memory.md R74). -/
def wrOp (c : Config) (off : Nat) (v : Word) : HostOp := .access (.write (c.base + off) 32 0xF#4 v)

/-- RD(off): a 32-bit read at BASE + off (spec/20_memory.md R74). -/
def rdOp (c : Config) (off : Nat) : HostOp := .access (.read (c.base + off) 32)

/-- Bytes packed four to a word, missing bytes taken as 0 (R107: WRBYTES). -/
def packWords : List Byte → List Word
  | [] => []
  | [b0] => [wordOfLanes b0 0 0 0]
  | [b0, b1] => [wordOfLanes b0 b1 0 0]
  | [b0, b1, b2] => [wordOfLanes b0 b1 b2 0]
  | b0 :: b1 :: b2 :: b3 :: rest => wordOfLanes b0 b1 b2 b3 :: packWords rest

/-- Writes of consecutive words from offset `off` up. -/
def wrWords (c : Config) : Nat → List Word → List HostOp
  | _, [] => []
  | off, w :: ws => wrOp c off w :: wrWords c (off + 4) ws

/-- Reads of `k` consecutive words from offset `off` up. -/
def rdWords (c : Config) : Nat → Nat → List HostOp
  | _, 0 => []
  | off, k + 1 => rdOp c off :: rdWords c (off + 4) k

/-- The expansion of one line (R106, R107). -/
def Pseudo.expand (c : Config) : Pseudo → List HostOp
  | .wr off v => [wrOp c off v]
  | .rd off => [rdOp c off]
  | .command i => [wrOp c Loc.cmd.offset (encode i)]
  | .wrBig r v => wrWords c r.offset (wordsOf c.nw v)
  | .rdBig r => rdWords c r.offset c.nw
  | .wrBytes b bs => wrWords c b.offset (packWords bs)
  | .wrDigits ds => wrWords c Buf.blk.offset (packWords (ds.map chr))
  | .rdBytes b m => rdWords c b.offset ((m + 3) / 4)
  | .poll => [.poll]
  | .waitIrq => [.waitIrq]
  | .ack => [wrOp c Loc.irqStat.offset 3]

/-- The bus operations of a program (R108). -/
def program (c : Config) (lines : List Pseudo) : List HostOp := lines.flatMap (Pseudo.expand c)

/-- The state with a host program loaded from outside (notes/assumptions/3.md). -/
def State.load (s : State) (lines : List Pseudo) : State := { s with host := program s.cfg lines }

end Sys2Proof.Machine
end

