-- ==== Sys2Proof/Machine/Step.lean ====
section
/-!
DEFINITION. One step of the machine, and the placing of one command word where the next step takes it.
-/

namespace Sys2Proof.Machine

/-- One step: the next agent's move (spec/20_memory.md R83). -/
def step (s : State) : Host.Outcome State Fault Refusal := Sys2Proof.Machine.nextMove s

/-- The state in which the host's next operation is the write of this command word to CMD, and the
next turn is the host's; the reset input is released, since no access is answered while it is asserted
(notes/assumptions/3.md). -/
def State.withFetchWord (s : State) (nbits w : Nat) : State :=
  { s with
    host := Sys2Proof.Machine.wrOp s.cfg Loc.cmd.offset (Sys2Proof.commandWord nbits w) :: s.host
    turns := .host :: s.turns
    rst := false }

end Sys2Proof.Machine
end

