-- ==== Sys2Proof/Safety.lean ====
section
/-!
DEFINITION. What counts as a sound state and a safe step, in the terms that the statements use.
-/

namespace Sys2Proof.Machine

/-- Every big-integer register has NW words (spec/00_scope.md R6). -/
def State.WidthsOk (s : State) : Prop := ∀ r, (s.getBig r).length = s.cfg.nw

/-- The window offset is that of a byte of MSG or BLK (spec/10_state.md R48, R49). -/
def IsBufferByte (c : Config) (a : Nat) : Prop :=
  ∃ b : Buf, ∃ i, i < b.size c ∧ a = b.offset + i

/-- The buffer memory is in canonical form, and lists bytes of MSG and BLK only. -/
structure State.MemOk (s : State) : Prop where
  wf : s.mem.wf
  inside : ∀ c ∈ s.mem, IsBufferByte s.cfg c.1

/-- The status fields agree with each other and with the controller (spec/10_state.md R24-R30, R36;
spec/60_exceptions.md R260). -/
structure State.FlagsOk (s : State) : Prop where
  /-- DONE and ERR are never both 1 (R27). -/
  notBoth : ¬(s.done = true ∧ s.err = true)
  /-- Without an error the outcome fields are 0 (R30, R36). -/
  noErr : s.err = false → s.errCode = 0 ∧ s.subcause = 0 ∧ s.errPos = 0
  /-- Only the codes and sub-causes of Table T60.1 are produced (R260). -/
  legal : s.err = true → ∃ c : ErrCause, s.errCode = c.code ∧ s.subcause = c.sub
  /-- Only a DECODE error has a position other than 0 (R36). -/
  position : s.errPos ≠ 0 → s.errCode = 3
  /-- While busy neither outcome is recorded (R55). -/
  busyClear : s.busy = true → s.done = false ∧ s.err = false
  /-- LAST_OP names the executing command (R24). -/
  lastOp : ∀ i, s.ctrl.command = some i → s.lastOp = i.op
  /-- KEYVALID is 0 while a key is derived (R29). -/
  noKey : s.ctrl.command = some .keygen ∨ s.ctrl.command = some .derive → s.keyValid = false

/-- The latches of the executing command are in the ranges that the command rules give them
(spec/41_keyderive.md R163, R164, R169-R174; spec/42_codec.md R202, R203). -/
def State.LatchesOk (s : State) : Prop :=
  match s.ctrl with
  | .idle | .egRun | .dvCheck | .deRun | .enRun none => True
  | .kgDrawP _ ws => ws.length < s.cfg.candWords
  | .kgPrimeP _ cand => cand < 2 ^ (s.cfg.keyBits / 2)
  | .kgDrawQ _ p ws => p < s.cfg.primeBound ∧ ws.length < s.cfg.candWords
  | .kgPrimeQ _ p cand => p < s.cfg.primeBound ∧ cand < 2 ^ (s.cfg.keyBits / 2)
  | .kgArith _ p q => p * q < 2 ^ s.cfg.bw
  | .kgEgcd _ n phi => n < 2 ^ s.cfg.bw ∧ phi < 2 ^ s.cfg.bw
  | .kgCheck _ n phi t => n < 2 ^ s.cfg.bw ∧ phi < 2 ^ s.cfg.bw ∧ t = egcd phi ePub
  | .kgNorm _ n phi d =>
    n < 2 ^ s.cfg.bw ∧ phi < 2 ^ s.cfg.bw ∧ -(phi : Int) ≤ d ∧ d ≤ phi ∧
      ((ePub : Int) * d - 1) % phi = 0
  | .kgCommit _ n d => n < 2 ^ s.cfg.bw ∧ d < 2 ^ s.cfg.bw
  | .enRun (some filler) =>
    s.msgLen.toNat ≤ s.cfg.lmax ∧ filler.length ≤ s.fillerLen ∧
      ∀ b ∈ filler, isDig b = true ∧ b ≠ chr 0

/-- The invariant of the machine: legal parameters, registers of their width, a canonical memory,
consistent status fields, latches in range. -/
structure State.Inv (s : State) : Prop where
  cfg : s.cfg.wf = true
  widths : s.WidthsOk
  mem : s.MemOk
  flags : s.FlagsOk
  latches : s.LatchesOk

/-- The block is idle and its reset input is released: it answers the host, and a command written to
CMD is accepted (spec/30_encoding.md R101). -/
structure State.Ready (s : State) : Prop where
  idle : s.ctrl = .idle
  running : s.rst = false

/-- Every byte that ENCODE would read has been written (spec/70_reset_and_hazards.md R302, step 4). -/
def State.MessageIs (s : State) (msg : List Byte) : Prop :=
  s.msgLen.toNat = msg.length ∧ s.bufBytes .msg msg.length = msg.map some

/-- The reserved locations of the window, as spec/20_memory.md R76 lists them. -/
def ReservedOffset (c : Config) (off : Nat) : Prop :=
  (0x02C ≤ off ∧ off ≤ 0x3FF) ∨
  (0x0400 ≤ off ∧ off ≤ 0x2FFF ∧ c.nw ≤ off % 0x400 / 4) ∨
  (0x3000 ≤ off ∧ off ≤ 0x33FF ∧ (c.lmax + 3) / 4 ≤ (off - 0x3000) / 4) ∨
  (0x3400 ≤ off ∧ off ≤ 0x37FF ∧ c.dcap / 4 ≤ (off - 0x3400) / 4) ∨
  (0x3800 ≤ off ∧ off ≤ 0x3FFF)

/-- The registers and fields of Table T10.6 at their reset values, no request pending, irq 0
(spec/10_state.md R54). -/
structure State.AtReset (t : State) : Prop where
  ctrl : t.ctrl = .idle
  constants : t.readLoc .id = 0x52534101#32 ∧ t.readLoc .param = paramWord t.cfg
  lastOp : t.lastOp = 0
  status : t.statusWord = 0
  irqEn : t.doneIE = false ∧ t.errIE = false
  irqStat : t.doneIP = false ∧ t.errIP = false
  counts : t.msgLen = 0 ∧ t.blkLen = 0 ∧ t.errPos = 0 ∧ t.iterCnt = 0 ∧ t.retryCnt = 0
  zero : ∀ r, r ≠ .E → t.getBig r = List.replicate t.cfg.nw 0
  e : t.getBig .E = wordsOf t.cfg.nw 65537
  noRequest : t.request = none
  irq : t.irq = false

/-- The host's read of a location returns the location's current value: each field zero-extended
(spec/10_state.md R22-R38), the word of a register (R39), the bytes of a buffer word, with 0 in the
lanes beyond the buffer and a free value for a byte with a clear written mark (R48, R49, R52). -/
def State.ReadsCurrent (s : State) : Loc → Prop
  | .id => s.readLoc .id = 0x52534101#32
  | .param => s.readLoc .param = BitVec.ofNat 16 s.cfg.lmax ++ BitVec.ofNat 16 s.cfg.keyBits
  | .cmd => s.readLoc .cmd = s.lastOp.setWidth 32
  | .status => s.readLoc .status = s.statusWord
  | .irqEn => ∀ j, (s.readLoc .irqEn).getLsbD j =
      ((decide (j = 0) && s.doneIE) || (decide (j = 1) && s.errIE))
  | .irqStat => ∀ j, (s.readLoc .irqStat).getLsbD j =
      ((decide (j = 0) && s.doneIP) || (decide (j = 1) && s.errIP))
  | .msgLen => s.readLoc .msgLen = s.msgLen.setWidth 32
  | .blkLen => s.readLoc .blkLen = s.blkLen.setWidth 32
  | .errPos => s.readLoc .errPos = s.errPos.setWidth 32
  | .iterCnt => s.readLoc .iterCnt = s.iterCnt
  | .retryCnt => s.readLoc .retryCnt = s.retryCnt
  | .big r i => s.readLoc (.big r i) = (s.getBig r).getD i 0
  | .buf b j => ∀ lane, lane < 4 → (s.readLoc (.buf b j)).extractLsb' (8 * lane) 8 =
      if 4 * j + lane < b.size s.cfg then
        (s.bufByte b (4 * j + lane)).getD (Config.freeByte s.draws lane)
      else 0#8

/-- The host moves in the next step: its turn is planned, alone or beside a controller step, or no turn
is planned and the controller has no step to take (notes/assumptions/2.md). -/
def State.HostMoves (s : State) : Prop :=
  match s.turns with
  | .host :: _ | .together _ :: _ => True
  | [] => s.controllerReady = false
  | _ => False

/-- The host's move in the next step is a legal write of `v` to the location `l`
(spec/20_memory.md R74, R75). -/
def State.HostWrites (s : State) (l : Loc) (v : Word) : Prop :=
  s.HostMoves ∧ ∃ a rest, s.host = .access (.write a 32 0xF#4 v) :: rest ∧
    s.cfg.base ≤ a ∧ a < s.cfg.base + 0x4000 ∧ (a - s.cfg.base) % 4 = 0 ∧
    locate s.cfg (a - s.cfg.base) = some l

/-- The reset input is released in the next step (spec/70_reset_and_hazards.md R300). -/
def State.Releases (s : State) : Prop := s.rst = true ∧ ∃ ts, s.turns = .releaseReset :: ts

/-- The next step is a reset: the release of the reset input, or the host's SRESET
(spec/10_state.md R54). -/
def State.Resets (s : State) : Prop :=
  s.Releases ∨ ∃ v, s.HostWrites .cmd v ∧ decode v = .sreset

/-- The random source answers the requests numbered from `tag` on with these words, in order. -/
def randomAnswers : Nat → List Word → List Turn
  | _, [] => []
  | tag, w :: ws => .randomAnswer tag w :: randomAnswers (tag + 1) ws

/-- `k` controller steps. -/
def controllerTurns (k : Nat) : List Turn := List.replicate k .controller

/-- A step is safe when it neither faults nor is refused. -/
def SafeStep (s : State) : Prop := ∃ t, step s = .next t

end Sys2Proof.Machine
end

