-- ==== Sys2Proof/Certificates/Slice0/Obligations.lean ====
section
/-!
DEFINITION. The statements for the provers.
-/

open Sys2Proof Sys2Proof.Machine

/-! ## The command word -/

/-- Table T30.2: each of the sixteen OP values selects exactly one command (spec/30_encoding.md R102). -/
def Obligations.CommandWordsDecode : Prop :=
  ∀ p ∈
    [(0b00000000000000000000000000000000#32, Instr.nop),
     (0b00000000000000000000000000000001#32, Instr.egcd),
     (0b00000000000000000000000000000010#32, Instr.keygen),
     (0b00000000000000000000000000000011#32, Instr.derive),
     (0b00000000000000000000000000000100#32, Instr.encode),
     (0b00000000000000000000000000000101#32, Instr.decode),
     (0b00000000000000000000000000000110#32, Instr.reserved6),
     (0b00000000000000000000000000000111#32, Instr.reserved7),
     (0b00000000000000000000000000001000#32, Instr.reserved8),
     (0b00000000000000000000000000001001#32, Instr.reserved9),
     (0b00000000000000000000000000001010#32, Instr.reservedA),
     (0b00000000000000000000000000001011#32, Instr.reservedB),
     (0b00000000000000000000000000001100#32, Instr.reservedC),
     (0b00000000000000000000000000001101#32, Instr.reservedD),
     (0b00000000000000000000000000001110#32, Instr.reservedE),
     (0b00000000000000000000000000001111#32, Instr.sreset)],
    decode p.1 = p.2

/-- Decode and encode agree on every command, and a word is a command exactly by its OP field: bits
[31:4] are ignored whatever they hold (spec/30_encoding.md R100, R103). -/
def Obligations.DecodeEncodeAgree : Prop :=
  (∀ i : Instr, i.wf = true → decode (encode i) = i) ∧
  (∀ (w : Word) (i : Instr), decode w = i ↔ w.extractLsb' 0 4 = i.op)

/-! ## A step runs the decoded command -/

/-- When the host's turn comes and its next operation is a legal write of a word to CMD, the step is
`exec` of the decoded command, after the operation is taken from the program and the write's OKAY
response is recorded; also when no turn is planned and the controller has no step to take. A word
placed by `withFetchWord` is run by the very next step. How the program, the plan and the responses are
held is the model's choice (notes/assumptions/2.md, 3.md, 12.md). -/
def Obligations.StepRunsDecodedCommand : Prop :=
  (∀ (s : State) (w : Word) (rest : List HostOp), s.rst = false →
    s.host = wrOp s.cfg 0x008 w :: rest →
    (∀ ts, s.turns = .host :: ts →
      step s = exec (decode w)
        { s with turns := ts, host := rest, trace := ⟨true, none⟩ :: s.trace }) ∧
    (s.turns = [] → s.controllerReady = false →
      step s = exec (decode w) { s with host := rest, trace := ⟨true, none⟩ :: s.trace })) ∧
  (∀ (s : State) (nbits w : Nat), nbits ≤ 32 →
    ∃ i, decodeTableWord nbits w = some i ∧
      step (s.withFetchWord nbits w) =
        exec i { s with rst := false, trace := ⟨true, none⟩ :: s.trace })

/-! ## Host accesses -/

/-- A misaligned or narrow access, or one to a reserved location, gets ERROR, reads 0, sets BUSERR and
does nothing else (spec/20_memory.md R75). -/
def Obligations.IllegalAccessGetsError : Prop :=
  ∀ (s : State) (off : Nat), s.rst = false → off < 0x4000 →
    (∀ size, (off % 4 ≠ 0 ∨ size ≠ 32 ∨ ReservedOffset s.cfg off) →
      busAccess (.read (s.cfg.base + off) size) s =
        .next { s with busErr := true, trace := ⟨false, some 0⟩ :: s.trace }) ∧
    (∀ size strobes v,
      (off % 4 ≠ 0 ∨ size ≠ 32 ∨ strobes ≠ 0xF#4 ∨ ReservedOffset s.cfg off) →
      busAccess (.write (s.cfg.base + off) size strobes v) s =
        .next { s with busErr := true, trace := ⟨false, none⟩ :: s.trace })

/-- Every other access gets OKAY: the offset is that of exactly one register or buffer word, whose
value a read returns, and which a write goes to. The offsets are those of Table T10.1, each control
register at its own, and word i of a big-integer register or buffer at its window's plus 4·i
(spec/10_state.md Table T10.1; spec/20_memory.md R74, R76). -/
def Obligations.LegalAccessReachesItsRegister : Prop :=
  (∀ (s : State) (off : Nat), s.cfg.wf = true → s.rst = false → off < 0x4000 → off % 4 = 0 →
    ¬ ReservedOffset s.cfg off →
    ∃ l : Loc, l.offset = off ∧ locate s.cfg off = some l ∧
      (∀ l' : Loc, locate s.cfg l'.offset = some l' → l'.offset = off → l' = l) ∧
      busAccess (.read (s.cfg.base + off) 32) s =
        .next { s with
          draws := if s.readDraws l then s.draws + 1 else s.draws
          trace := ⟨true, some (s.readLoc l)⟩ :: s.trace } ∧
      (∀ v, busAccess (.write (s.cfg.base + off) 32 0xF#4 v) s =
        writeHost l v { s with trace := ⟨true, none⟩ :: s.trace })) ∧
  (∀ c : Config, ∀ p ∈
    [(0x000, Loc.id), (0x004, .param), (0x008, .cmd), (0x00C, .status), (0x010, .irqEn),
     (0x014, .irqStat), (0x018, .msgLen), (0x01C, .blkLen), (0x020, .errPos), (0x024, .iterCnt),
     (0x028, .retryCnt)], locate c p.1 = some p.2) ∧
  (∀ c : Config, c.wf = true → ∀ p ∈
    [(0x0400, BigName.A), (0x0800, .B), (0x0C00, .X), (0x1000, .Y), (0x1400, .G), (0x1800, .P),
     (0x1C00, .Q), (0x2000, .N), (0x2400, .PHI), (0x2800, .D), (0x2C00, .E)],
    ∀ i, i < c.nw → locate c (p.1 + 4 * i) = some (.big p.2 i)) ∧
  (∀ c : Config, c.wf = true →
    (∀ j, j < (c.lmax + 3) / 4 → locate c (0x3000 + 4 * j) = some (.buf .msg j)) ∧
    (∀ j, j < c.dcap / 4 → locate c (0x3400 + 4 * j) = some (.buf .blk j)))

/-- Word `i` of a big-integer register, at window offset W + 4·i, carries bits [32·i+31 : 32·i]: a read
gives them, and a host write to A, B, P or Q of an idle block changes exactly them
(spec/20_memory.md R71). -/
def Obligations.BigRegisterWordOrder : Prop :=
  ∀ (s : State) (r : BigName) (i : Nat), s.cfg.wf = true → s.WidthsOk → i < s.cfg.nw →
    locate s.cfg (r.offset + 4 * i) = some (.big r i) ∧
    (s.isDestination (.big r i) = false →
      ∀ j, j < 32 → (s.readLoc (.big r i)).getLsbD j = (s.getBig r).value.testBit (32 * i + j)) ∧
    (s.busy = false → r.hostWritable = true →
      ∀ v : Word, ∃ t, writeHost (.big r i) v s = .next t ∧
        (∀ j, (t.getBig r).value.testBit j =
          if 32 * i ≤ j ∧ j < 32 * i + 32 then v.getLsbD (j - 32 * i)
          else (s.getBig r).value.testBit j) ∧
        t = s.setBig r (t.getBig r) ∧ (t.getBig r).length = s.cfg.nw)

/-- Byte `i` of a buffer occupies bits [8·(i mod 4)+7 : 8·(i mod 4)] of word i div 4: a host write of an
idle block sets the bytes of its lanes that lie in the buffer, and their written marks, and changes
nothing else; a read returns the written bytes and 0 in the lanes beyond the buffer
(spec/20_memory.md R72; spec/10_state.md R48, R49, R52). -/
def Obligations.BufferByteOrder : Prop :=
  ∀ (s : State) (b : Buf) (j : Nat) (v : Word), s.cfg.wf = true → s.busy = false →
    j < b.words s.cfg →
    locate s.cfg (b.offset + 4 * j) = some (.buf b j) ∧
    ∃ t, writeHost (.buf b j) v s = .next t ∧
      (∀ lane, lane < 4 → 4 * j + lane < b.size s.cfg →
        t.bufByte b (4 * j + lane) = some (v.extractLsb' (8 * lane) 8)) ∧
      (∀ a, (∀ lane, lane < 4 → 4 * j + lane < b.size s.cfg → a ≠ b.offset + (4 * j + lane)) →
        t.mem.read a = s.mem.read a) ∧
      t = { s with mem := t.mem } ∧
      (∀ lane, lane < 4 → (t.readLoc (.buf b j)).extractLsb' (8 * lane) 8 =
        if 4 * j + lane < b.size s.cfg then v.extractLsb' (8 * lane) 8 else 0#8)

/-- A host read changes no register, buffer, mark or controller state: only the response is recorded,
BUSERR is set by an ERROR response (spec/20_memory.md R79, R75), and the model's counter of free values
may advance (notes/assumptions/5.md). -/
def Obligations.ReadsHaveNoSideEffect : Prop :=
  ∀ (s t : State) (addr size : Nat), busAccess (.read addr size) s = .next t →
    ∃ r : Response, t.trace = r :: s.trace ∧ r.value.isSome = true ∧
      t = { s with trace := r :: s.trace, draws := t.draws, busErr := s.busErr || !r.okay }

/-- A host write to a read-only register or field that is not reserved is ignored, gets OKAY and does not
set BUSERR: the read-only registers; the read-only bits of STATUS; the upper half of MSG_LEN, BLK_LEN
and ERR_POS; the byte lanes beyond MSG (spec/20_memory.md R77). -/
def Obligations.ReadOnlyWritesIgnored : Prop :=
  ∀ (s : State) (off : Nat) (l : Loc) (v : Word), s.rst = false → s.cfg.wf = true → off < 0x4000 →
    off % 4 = 0 → locate s.cfg off = some l →
    let write (v : Word) : Result := busAccess (.write (s.cfg.base + off) 32 0xF#4 v) s
    ((l ∈ [.id, .param, .errPos, .iterCnt, .retryCnt] ∨
      ∃ r i, l = .big r i ∧ r ∈ [.X, .Y, .G, .N, .PHI, .D, .E]) →
      write v = .next { s with trace := ⟨true, none⟩ :: s.trace }) ∧
    (l = .status → ∃ t, write v = .next t ∧ (t.busErr = true → s.busErr = true) ∧
      t = { s with
        rej := t.rej, wign := t.wign, busErr := t.busErr, trace := ⟨true, none⟩ :: s.trace }) ∧
    (l ∈ [.msgLen, .blkLen] → ∃ t, write v = .next t ∧ t.busErr = s.busErr ∧
      t.trace = ⟨true, none⟩ :: s.trace ∧
      ∀ v' : Word, v'.extractLsb' 0 16 = v.extractLsb' 0 16 → write v' = .next t) ∧
    (∀ j, l = .buf .msg j → ∃ t, write v = .next t ∧ t.busErr = s.busErr ∧
      t.trace = ⟨true, none⟩ :: s.trace ∧
      ∀ v' : Word, (∀ lane, lane < 4 → 4 * j + lane < s.cfg.lmax →
        v'.extractLsb' (8 * lane) 8 = v.extractLsb' (8 * lane) 8) → write v' = .next t)

/-- In the busy window a write to an operand register or buffer is ignored with an OKAY response and sets
WIGN, whichever command executes; writes to IRQ_EN, IRQ_STAT and the W1C bits of STATUS take effect;
writes to read-only registers are ignored; a write to CMD issues its command
(spec/70_reset_and_hazards.md R310). -/
def Obligations.BusyWindowWrites : Prop :=
  ∀ (s : State) (off : Nat) (l : Loc) (v : Word), s.busy = true → s.rst = false → off < 0x4000 →
    off % 4 = 0 → locate s.cfg off = some l →
    let write : Result := busAccess (.write (s.cfg.base + off) 32 0xF#4 v) s
    let ok : State := { s with trace := ⟨true, none⟩ :: s.trace }
    (l ∈ [.msgLen, .blkLen] ∨ (∃ b j, l = .buf b j) ∨
      (∃ r i, l = .big r i ∧ r ∈ [BigName.A, .B, .P, .Q]) →
      write = .next { ok with wign := true }) ∧
    (l = .irqEn → write = .next { ok with doneIE := v.getLsbD 0, errIE := v.getLsbD 1 }) ∧
    (l = .irqStat → write =
      .next { ok with doneIP := s.doneIP && !v.getLsbD 0, errIP := s.errIP && !v.getLsbD 1 }) ∧
    (l = .status → write = .next { ok with
      rej := s.rej && !v.getLsbD 12
      wign := s.wign && !v.getLsbD 13
      busErr := s.busErr && !v.getLsbD 14 }) ∧
    (l ∈ [.id, .param, .errPos, .iterCnt, .retryCnt] ∨
      (∃ r i, l = .big r i ∧ r ∈ [BigName.X, .Y, .G, .N, .PHI, .D, .E]) → write = .next ok) ∧
    (l = .cmd → write = exec (decode v) ok)

/-- In the busy window every command but SRESET is rejected: REJ is set and nothing else changes, so
the running command goes on and the rejected one never runs. SRESET is performed
(spec/70_reset_and_hazards.md R311). -/
def Obligations.BusyWindowCommands : Prop :=
  ∀ (s : State) (i : Instr), s.busy = true →
    (i ≠ .sreset → exec i s = .next { s with rej := true }) ∧
    exec .sreset s = .next s.softReset

/-- In the busy window STATUS reads BUSY = 1 and ERR_POS reads 0. The locations whose reads are
unspecified are exactly the destinations that R312 lists for the executing command, and a read of one
is a free value (notes/assumptions/5.md); every other location reads its current value, ID, PARAM, CMD,
STATUS and the interrupt registers among them (spec/70_reset_and_hazards.md R312, R313). -/
def Obligations.BusyWindowReads : Prop :=
  ∀ s : State, s.Inv → s.busy = true →
    (s.readLoc .status).getLsbD 0 = true ∧ (s.readLoc .status).getLsbD 1 = false ∧
    (s.readLoc .status).getLsbD 2 = false ∧ s.readLoc .errPos = 0 ∧
    (∀ l : Loc, s.isDestination l = true ↔
      (s.ctrl.command = some .egcd ∧
        (l = .iterCnt ∨ ∃ r ∈ [BigName.X, .Y, .G], ∃ i, l = .big r i)) ∨
      ((s.ctrl.command = some .keygen ∨ s.ctrl.command = some .derive) ∧
        (l = .iterCnt ∨ l = .retryCnt ∨
          ∃ r ∈ [BigName.P, .Q, .PHI, .N, .D], ∃ i, l = .big r i)) ∨
      (s.ctrl.command = some .encode ∧ (l = .blkLen ∨ ∃ j, l = .buf .blk j)) ∨
      (s.ctrl.command = some .decode ∧ (l = .msgLen ∨ ∃ j, l = .buf .msg j))) ∧
    (∀ l : Loc, s.isDestination l = true →
      s.readLoc l = Config.freeWord s.draws ∧ s.readDraws l = true) ∧
    (∀ l : Loc, s.isDestination l = false → s.ReadsCurrent l)

/-- Outside the destinations of an executing command, so in every idle state, a host read returns the
location's current value: ERR_POS, at offset 0x020, MSG_LEN and BLK_LEN their 16 bits zero-extended,
ITER_CNT, at 0x024, and RETRY_CNT, at 0x028, their 32 bits, and so on for each location. ERR_POS is
never a destination (spec/10_state.md R34-R38; spec/70_reset_and_hazards.md R312). -/
def Obligations.ReadsReturnCurrentValues : Prop :=
  ∀ s : State,
    locate s.cfg 0x020 = some .errPos ∧ locate s.cfg 0x024 = some .iterCnt ∧
    locate s.cfg 0x028 = some .retryCnt ∧
    s.isDestination .errPos = false ∧
    (s.busy = false → ∀ l : Loc, s.isDestination l = false) ∧
    (∀ l : Loc, s.isDestination l = false → s.ReadsCurrent l)

/-! ## Control registers -/

/-- ID, at offset 0x000, PARAM, at offset 0x004, and E read constants in every state, and writes to them
are ignored (spec/10_state.md R22, R23, R47). -/
def Obligations.ConstantRegisters : Prop :=
  (∀ s : State, locate s.cfg 0x000 = some .id ∧ s.readLoc .id = 0x52534101#32) ∧
  (∀ s : State, s.cfg.wf = true → locate s.cfg 0x004 = some .param ∧
    (s.readLoc .param).extractLsb' 0 16 = BitVec.ofNat 16 s.cfg.keyBits ∧
    (s.readLoc .param).extractLsb' 16 16 = BitVec.ofNat 16 ((s.cfg.keyBits / 4 - 9) / 3)) ∧
  (∀ s : State, s.cfg.keyBits = 2048 → s.readLoc .param = 0x00A70800#32) ∧
  (∀ s : State, s.cfg.keyBits = 64 → s.readLoc .param = 0x00020040#32) ∧
  (∀ s : State, s.readLoc (.big .E 0) = 0x00010001#32 ∧
    ∀ i, 1 ≤ i → s.readLoc (.big .E i) = 0#32) ∧
  (∀ (s : State) (v : Word), writeHost .id v s = .next s ∧ writeHost .param v s = .next s ∧
    ∀ i, writeHost (.big .E i) v s = .next s)

/-- IRQ_EN, at offset 0x010: bits [0] and [1] are DONE_IE and ERR_IE, the others read 0 and ignore
writes; 0 at reset; writable whether the block is busy or not (spec/10_state.md R32). -/
def Obligations.IrqEnableRegister : Prop :=
  ∀ (s : State) (v : Word),
    locate s.cfg 0x010 = some .irqEn ∧
    (∃ t, writeHost .irqEn v s = .next t ∧ t = { s with doneIE := t.doneIE, errIE := t.errIE } ∧
      t.readLoc .irqEn = v &&& 3#32) ∧
    (∀ j, (s.readLoc .irqEn).getLsbD j =
      ((decide (j = 0) && s.doneIE) || (decide (j = 1) && s.errIE))) ∧
    State.reset.readLoc .irqEn = 0

/-- IRQ_STAT, at offset 0x014: bits [0] and [1] are DONE_IP and ERR_IP, the others read 0; writing 1 to a
bit clears it and writing 0 leaves it, and nothing else changes; 0 at reset (spec/10_state.md R33). -/
def Obligations.IrqStatusRegister : Prop :=
  ∀ (s : State) (v : Word),
    locate s.cfg 0x014 = some .irqStat ∧
    (s.readLoc .irqStat).getLsbD 0 = s.doneIP ∧ (s.readLoc .irqStat).getLsbD 1 = s.errIP ∧
    (s.readLoc .irqStat).extractLsb' 2 30 = 0#30 ∧
    (∃ t, writeHost .irqStat v s = .next t ∧ t = { s with doneIP := t.doneIP, errIP := t.errIP } ∧
      t.readLoc .irqStat = s.readLoc .irqStat &&& ~~~v) ∧
    State.reset.readLoc .irqStat = 0

/-- Which events set a pending bit: DONE_IP exactly the success completions, which are controller steps;
ERR_IP exactly the error completions, which are controller steps, prime answers, and the host's write of
a reserved opcode. No other move raises either bit (spec/10_state.md R33; spec/60_exceptions.md R261,
R262, R271). -/
def Obligations.CompletionsSetPending : Prop :=
  ∀ (s t : State) (turn : Turn), (∀ b, turn ≠ .together b) → takeTurn turn s = .next t →
    (s.done = false → t.done = true → t.doneIP = true) ∧
    (s.err = false → t.err = true → t.errIP = true) ∧
    (s.doneIP = false → t.doneIP = true →
      turn = .controller ∧ s.busy = true ∧ t.busy = false ∧ t.done = true) ∧
    (s.errIP = false → t.errIP = true → t.busy = false ∧ t.err = true ∧
      ((turn = .controller ∧ s.busy = true) ∨
       (∃ tag e r, turn = .primeAnswer tag e r ∧ s.busy = true) ∨
       (turn = .host ∧ s.busy = false ∧ ∃ a strobes v rest,
         s.host = .access (.write a 32 strobes v) :: rest ∧
         locate s.cfg (a - s.cfg.base) = some .cmd ∧ (decode v).reserved = true)))

/-- MSG_LEN, at offset 0x018, and BLK_LEN, at offset 0x01C: a host write to an idle block replaces bits
[15:0], whatever the value, and nothing else changes; bits [31:16] read 0
(spec/10_state.md R34, R35). -/
def Obligations.LengthRegisters : Prop :=
  ∀ (s : State) (v : Word),
    locate s.cfg 0x018 = some .msgLen ∧ locate s.cfg 0x01C = some .blkLen ∧
    (s.busy = false →
      (∃ t, writeHost .msgLen v s = .next t ∧ t = { s with msgLen := t.msgLen } ∧
        t.readLoc .msgLen = v &&& 0xFFFF#32) ∧
      (∃ t, writeHost .blkLen v s = .next t ∧ t = { s with blkLen := t.blkLen } ∧
        t.readLoc .blkLen = v &&& 0xFFFF#32))

/-- STATUS, at offset 0x00C, has the fields of Table T10.2; a write clears each W1C bit written with 1
and leaves every other bit unchanged (spec/10_state.md R25). -/
def Obligations.StatusRegister : Prop :=
  ∀ (s : State) (v : Word),
    locate s.cfg 0x00C = some .status ∧
    (s.readLoc .status).getLsbD 0 = s.busy ∧ (s.readLoc .status).getLsbD 1 = s.done ∧
    (s.readLoc .status).getLsbD 2 = s.err ∧ (s.readLoc .status).getLsbD 3 = s.keyValid ∧
    (s.readLoc .status).extractLsb' 4 4 = s.errCode ∧
    (s.readLoc .status).extractLsb' 8 4 = s.subcause ∧
    (s.readLoc .status).getLsbD 12 = s.rej ∧ (s.readLoc .status).getLsbD 13 = s.wign ∧
    (s.readLoc .status).getLsbD 14 = s.busErr ∧
    (s.readLoc .status).extractLsb' 15 17 = 0#17 ∧
    ∃ t, writeHost .status v s = .next t ∧
      t = { s with rej := t.rej, wign := t.wign, busErr := t.busErr } ∧
      t.readLoc .status = s.readLoc .status &&& ~~~(v &&& 0x7000#32)

/-- CMD reads the OP value of the last command accepted since reset: SRESET makes it 0, a rejected
command and NOP leave it, and it is 0 after reset. No step changes what CMD reads but the host's write
to CMD and the release of the reset input (spec/10_state.md R24; spec/43_control.md R240). -/
def Obligations.CmdReadsLastAcceptedCommand : Prop :=
  (∀ (s t : State) (i : Instr), exec i s = .next t →
    t.readLoc .cmd =
      (if i = .sreset then 0#32
       else if s.busy = true ∨ i = .nop then s.lastOp.setWidth 32
       else i.op.setWidth 32)) ∧
  (∀ c : Config, (State.resetOf c).readLoc .cmd = 0#32) ∧
  (∀ s t : State, step s = .next t → t.readLoc .cmd ≠ s.readLoc .cmd →
    (s.Releases ∧ t.readLoc .cmd = 0#32) ∨ ∃ v, s.HostWrites .cmd v)

/-- irq = (DONE_IP ∧ DONE_IE) ∨ (ERR_IP ∧ ERR_IE). Once it is 1 it falls only at the host's write to
IRQ_EN or IRQ_STAT, or at a reset (SRESET or hardware reset), and it is 0 after reset
(spec/60_exceptions.md R270). -/
def Obligations.IrqLine : Prop :=
  (∀ c : Config, (State.resetOf c).irq = false) ∧
  (∀ s : State, s.irq = true ↔
    (s.doneIP = true ∧ s.doneIE = true) ∨ (s.errIP = true ∧ s.errIE = true)) ∧
  (∀ s t : State, step s = .next t → s.irq = true → t.irq = false →
    s.Resets ∨ ∃ v, s.HostWrites .irqEn v ∨ s.HostWrites .irqStat v)

/-- When the host's clear of a pending bit arrives in the same cycle as the completion that sets it,
the bit reads 1 afterwards, in either order (spec/10_state.md R33; spec/60_exceptions.md R265;
notes/assumptions/11.md). -/
def Obligations.SetWinsOverClear : Prop :=
  ∀ (s t : State) (v : Word) (rest : List HostOp) (hostFirst : Bool), s.Inv → s.rst = false →
    s.controllerReady = true → s.host = wrOp s.cfg 0x014 v :: rest →
    takeTurn (.together hostFirst) s = .next t → t.busy = false →
    (t.done = true → t.doneIP = true) ∧ (t.err = true → t.errIP = true)

/-! ## Reset -/

/-- Reset gives every piece of state its value of Table T10.6. SRESET, accepted in every state, keeps
the buffers and their marks but for the one that an aborted ENCODE or DECODE was writing; hardware
reset clears every mark (spec/10_state.md R54). -/
def Obligations.ResetValues : Prop :=
  (∀ c : Config, (State.resetOf c).AtReset ∧ (State.resetOf c).mem = []) ∧
  (∀ s : State, ∃ t, exec .sreset s = .next t ∧ t.AtReset ∧
    (∀ a, t.mem.read a =
      if (s.ctrl.command = some .encode ∧ 0x3400 ≤ a ∧ a < 0x3400 + s.cfg.dcap) ∨
         (s.ctrl.command = some .decode ∧ 0x3000 ≤ a ∧ a < 0x3000 + s.cfg.lmax)
      then none else s.mem.read a) ∧
    t.cfg = s.cfg ∧ t.rst = s.rst) ∧
  (∀ s : State, s.rst = true → ∃ t, takeTurn .releaseReset s = .next t ∧ t.AtReset ∧ t.mem = [] ∧
    t.cfg = s.cfg ∧ t.rst = false)

/-- Neither reset touches what is outside the block: the host's program, the plan and the responses
received; nor the model's counter of free values. That they are kept is the model's choice
(notes/assumptions/2.md, 5.md, 9.md, 12.md). -/
def Obligations.ResetKeepsAgents : Prop :=
  ∀ s t : State, (exec .sreset s = .next t ∨ takeTurn .releaseReset s = .next t) →
    t.host = s.host ∧ t.turns = s.turns ∧ t.trace = s.trace ∧ t.draws = s.draws

/-! ## Issue -/

/-- NOP changes no state when the block is idle, and is rejected when it is busy
(spec/43_control.md R240). -/
def Obligations.NopDoesNothing : Prop :=
  ∀ s : State, (s.busy = false → exec .nop s = .next s) ∧
    (s.busy = true → exec .nop s = .next { s with rej := true })

/-- A reserved opcode on an idle block is accepted and completes at once with ILLEGAL_CMD; BUSY is never
1, nothing but the named fields changes, and irq rises if ERR_IE is 1. On a busy block it is rejected
(spec/43_control.md R242). -/
def Obligations.ReservedOpcodesComplete : Prop :=
  ∀ (s : State), ∀ i ∈ [Instr.reserved6, .reserved7, .reserved8, .reserved9, .reservedA,
      .reservedB, .reservedC, .reservedD, .reservedE],
    (s.busy = false → ∃ t, exec i s = .next t ∧
      t = { s with
        lastOp := i.op, done := false, err := true, errCode := 1, subcause := 0, errPos := 0
        errIP := true } ∧
      t.busy = false ∧ (s.errIE = true → t.irq = true)) ∧
    (s.busy = true → exec i s = .next { s with rej := true })

/-- Acceptance of any command other than NOP clears DONE, ERR, ERR_CODE, SUBCAUSE and ERR_POS: the
five executed commands then start with BUSY = 1, KEYGEN and DERIVE also clear KEYVALID and RETRY_CNT; a
reserved opcode's completion then sets ERR; NOP changes nothing; SRESET clears them as part of reset
(spec/10_state.md R55; spec/30_encoding.md R101). -/
def Obligations.AcceptanceStartsCommand : Prop :=
  ∀ s : State, s.busy = false →
    exec .egcd s = .next { s with
      ctrl := .egRun, lastOp := 1, done := false, err := false, errCode := 0, subcause := 0
      errPos := 0 } ∧
    exec .keygen s = .next { s with
      ctrl := .kgDrawP 0 [], lastOp := 2, done := false, err := false, errCode := 0, subcause := 0
      errPos := 0, keyValid := false, retryCnt := 0 } ∧
    exec .derive s = .next { s with
      ctrl := .dvCheck, lastOp := 3, done := false, err := false, errCode := 0, subcause := 0
      errPos := 0, keyValid := false, retryCnt := 0 } ∧
    exec .encode s = .next { s with
      ctrl := .enRun none, lastOp := 4, done := false, err := false, errCode := 0, subcause := 0
      errPos := 0 } ∧
    exec .decode s = .next { s with
      ctrl := .deRun, lastOp := 5, done := false, err := false, errCode := 0, subcause := 0
      errPos := 0 } ∧
    (∀ i t, i ∈ [Instr.egcd, .keygen, .derive, .encode, .decode] → exec i s = .next t →
      t.busy = true ∧ (t.readLoc .status).getLsbD 0 = true) ∧
    (∀ i t, i.reserved = true → exec i s = .next t →
      t.done = false ∧ t.err = true ∧ t.errCode = 1 ∧ t.subcause = 0 ∧ t.errPos = 0) ∧
    exec .nop s = .next s ∧
    (∀ t, exec .sreset s = .next t →
      t.done = false ∧ t.err = false ∧ t.errCode = 0 ∧ t.subcause = 0 ∧ t.errPos = 0)

/-! ## The GCD solver -/

/-- EGCD is the function of the two equations of R130, so that its recursion ends, and it gives a Bezout
triple: a·x + b·y = g = gcd(a, b) for all a, b (spec/40_egcd.md R130, R131). -/
def Obligations.BezoutIdentity : Prop :=
  (∀ a : Nat, egcd a 0 = { x := 1, y := 0, g := a, n := 0 }) ∧
  (∀ a b : Nat, b ≠ 0 → egcd a b =
    { x := (egcd b (a % b)).y
      y := (egcd b (a % b)).x - ((a / b : Nat) : Int) * (egcd b (a % b)).y
      g := (egcd b (a % b)).g
      n := (egcd b (a % b)).n + 1 }) ∧
  (∀ a b : Nat, (a : Int) * (egcd a b).x + (b : Int) * (egcd a b).y = (egcd a b).g ∧
    (egcd a b).g = Nat.gcd a b) ∧
  (egcd 0 0).g = 0 ∧
  (∀ b : Nat, 0 < b → egcd 0 b = { x := 0, y := 1, g := b, n := 1 })

/-- The coefficient bound: for g > 0, |x| ≤ max(1, b/(2g)) and |y| ≤ max(1, a/(2g)), so that for
a, b < 2^BW both fit BW bits of two's complement (spec/40_egcd.md R132, which the spec marks as from
general knowledge and not from its source; spec/93_implementation_defined.md section 3). -/
def Obligations.CoefficientBound : Prop :=
  (∀ a b : Nat, 0 < (egcd a b).g →
    2 * (egcd a b).g * (egcd a b).x.natAbs ≤ max (2 * (egcd a b).g) b ∧
    2 * (egcd a b).g * (egcd a b).y.natAbs ≤ max (2 * (egcd a b).g) a) ∧
  (egcd 0 0).x = 1 ∧ (egcd 0 0).y = 0 ∧
  (∀ bw a b : Nat, 2 ≤ bw → a < 2 ^ bw → b < 2 ^ bw →
    fitsSigned bw (egcd a b).x = true ∧ fitsSigned bw (egcd a b).y = true)

/-- The iterative datapath of R133 gives the quadruple of the recursion of R130 on every input. -/
def Obligations.LoopAgreesWithRecursion : Prop := ∀ a b : Nat, egcdIter a b = egcd a b

/-- The step count: for a, b < 2^BW, n ≤ 1.5·BW + 3, so n fits the 32 bits of ITER_CNT
(spec/40_egcd.md R134). -/
def Obligations.StepCountBound : Prop :=
  (∀ bw a b : Nat, a < 2 ^ bw → b < 2 ^ bw → 2 * (egcd a b).n ≤ 3 * bw + 6) ∧
  (∀ (c : Config) (a b : Nat), c.wf = true → a < 2 ^ c.bw → b < 2 ^ c.bw →
    (BitVec.ofNat 32 (egcd a b).n).toNat = (egcd a b).n)

/-- The EGCD command: on an idle block it is accepted, and the controller's step completes it with
success, with X, Y and G a Bezout triple of A and B and the step count in ITER_CNT; nothing else
changes but the outcome fields, and ARITH_OVERFLOW never occurs (spec/40_egcd.md R135; the steps are
those of notes/assumptions/4.md). -/
def Obligations.EgcdCommandCompletes : Prop :=
  ∀ s : State, s.Inv → s.Ready → ∃ t u,
    exec .egcd s = .next t ∧ t.busy = true ∧ takeTurn .controller t = .next u ∧
    u.X = wordsOf s.cfg.nw (twos s.cfg.bw (egcd s.A.value s.B.value).x) ∧
    u.Y = wordsOf s.cfg.nw (twos s.cfg.bw (egcd s.A.value s.B.value).y) ∧
    (s.A.value : Int) * sval s.cfg.bw u.X.value + (s.B.value : Int) * sval s.cfg.bw u.Y.value =
      Nat.gcd s.A.value s.B.value ∧
    u.G.value = Nat.gcd s.A.value s.B.value ∧
    u.iterCnt.toNat = (egcd s.A.value s.B.value).n ∧
    u = { s with
      lastOp := 1, done := true, err := false, errCode := 0, subcause := 0, errPos := 0
      doneIP := true, X := u.X, Y := u.Y, G := u.G, iterCnt := u.iterCnt }

/-! ## Key derivation -/

/-- A prime candidate is the K/64 words that the random source answers, the least significant first, and
lies below 2^(K/2); then the next prime is requested (spec/41_keyderive.md R163, R165; answers carry
the numbers of notes/assumptions/6.md). -/
def Obligations.CandidateFromWords : Prop :=
  ∀ (s : State) (ws : List Word) (r : Nat), s.cfg.wf = true → s.rst = false →
    ws.length = s.cfg.candWords →
    ∃ cand : Nat, cand = (ws.mapIdx fun i w => w.toNat * 2 ^ (32 * i)).sum ∧
      cand < 2 ^ (s.cfg.keyBits / 2) ∧
      (s.ctrl = .kgDrawP r [] → takeTurns (randomAnswers s.reqId ws) s =
        .next { s with ctrl := .kgPrimeP r cand, reqId := s.reqId + ws.length }) ∧
      (∀ p, s.ctrl = .kgDrawQ r p [] → takeTurns (randomAnswers s.reqId ws) s =
        .next { s with ctrl := .kgPrimeQ r p cand, reqId := s.reqId + ws.length })

/-- The checks of a prime answer, in order: SERVICE_ERROR, BELOW_CANDIDATE, OUT_OF_RANGE; each ends
KEYGEN with PRIME_SERVICE and no retry. An answer that passes is written to P or Q
(spec/41_keyderive.md R164, R168; notes/assumptions/6.md, 18.md). -/
def Obligations.PrimeAnswerChecks : Prop :=
  ∀ (s : State) (n c r : Nat) (err : Bool), s.rst = false → r < 2 ^ s.cfg.bw →
    let failed (sub : BitVec 4) : Result := .next { s with
      ctrl := .idle, errCode := 6, subcause := sub, errPos := 0, err := true, errIP := true
      reqId := s.reqId + 1 }
    (s.ctrl = .kgPrimeP n c →
      takeTurn (.primeAnswer s.reqId err r) s =
        (if err = true then failed 1
         else if r < c then failed 2
         else if 2 ^ (s.cfg.keyBits / 2 + 1) ≤ r then failed 3
         else .next { s with
           ctrl := .kgDrawQ n r [], P := wordsOf s.cfg.nw r, reqId := s.reqId + 1 })) ∧
    (∀ p, s.ctrl = .kgPrimeQ n p c →
      takeTurn (.primeAnswer s.reqId err r) s =
        (if err = true then failed 1
         else if r < c then failed 2
         else if 2 ^ (s.cfg.keyBits / 2 + 1) ≤ r then failed 3
         else .next { s with
           ctrl := .kgArith (.keygen n) p r, Q := wordsOf s.cfg.nw r, reqId := s.reqId + 1 }))

/-- DERIVE's operand checks, in order: P_LT_2, Q_LT_2, N_OVERFLOW; the first that fails is reported as
BAD_OPERAND, and P, Q, PHI, N, D and ITER_CNT are unchanged (spec/41_keyderive.md R180, R181). -/
def Obligations.DeriveOperandChecks : Prop :=
  ∀ s : State, s.Ready →
    (s.P.value < 2 ∨ s.Q.value < 2 ∨ 2 ^ s.cfg.bw ≤ s.P.value * s.Q.value) →
    ∃ t u, exec .derive s = .next t ∧ takeTurn .controller t = .next u ∧
      u = { s with
        lastOp := 3, done := false, err := true, errCode := 5
        subcause := if s.P.value < 2 then 1 else if s.Q.value < 2 then 2 else 3
        errPos := 0, errIP := true, keyValid := false, retryCnt := 0 }

/-- The normalisation loop: d starts as y, φ is added while d < 0, a non-negative y is taken
unchanged, and the loop ends (spec/41_keyderive.md R174). -/
def Obligations.NormalisationLoop : Prop :=
  ∀ (s : State) (cmd : KeyCmd) (n phi : Nat) (y : Int), s.rst = false → 0 < phi →
    s.ctrl = .kgNorm cmd n phi y →
    ∃ k j d : Nat,
      takeTurns (controllerTurns k) s = .next { s with ctrl := .kgCommit cmd n d } ∧
      (d : Int) = y + j * phi ∧ (0 ≤ y → j = 0) ∧ (y < 0 → d < phi)

/-- The retry rule: after a failed coprimality check KEYGEN compares its count r with KG_MAX_RETRIES. At
the limit it ends with KEYGEN_FAILURE / RETRY_LIMIT; otherwise it counts one more retry and starts a
fresh attempt from KG_DRAW_P, with RETRY_CNT saturating (spec/41_keyderive.md R173). -/
def Obligations.KeygenRetryRule : Prop :=
  ∀ (s : State) (r n phi : Nat) (b : Bezout), s.rst = false → b.g ≠ 1 →
    s.ctrl = .kgCheck (.keygen r) n phi b →
    takeTurn .controller s =
      (if s.cfg.maxRetries = some r then
        .next { s with
          ctrl := .idle, errCode := 4, subcause := 2, errPos := 0, err := true, errIP := true }
       else .next { s with
          ctrl := .kgDrawP (r + 1) [], retryCnt := BitVec.ofNat 32 (min (r + 1) 0xFFFFFFFF) })

/-- DERIVE commits a key: for p, q ≥ 2 with p·q < 2^BW and φ = (p−1)(q−1) coprime to 65537, it is
accepted, and the controller's steps complete it with N = p·q, e·D ≡ 1 (mod φ) and 0 ≤ D < φ < N;
P, Q and PHI are cleared, KEYVALID is set, and nothing else changes but the outcome fields and ITER_CNT
(spec/41_keyderive.md R175, R176, R180; the steps are those of notes/assumptions/4.md). -/
def Obligations.DeriveCommitsKey : Prop :=
  ∀ s : State, s.Inv → s.Ready → 2 ≤ s.P.value → 2 ≤ s.Q.value →
    s.P.value * s.Q.value < 2 ^ s.cfg.bw →
    Nat.gcd ((s.P.value - 1) * (s.Q.value - 1)) 65537 = 1 →
    ∃ t k u, exec .derive s = .next t ∧ takeTurns (controllerTurns k) t = .next u ∧
      u.N.value = s.P.value * s.Q.value ∧
      65537 * u.D.value ≡ 1 [MOD (s.P.value - 1) * (s.Q.value - 1)] ∧
      u.D.value < (s.P.value - 1) * (s.Q.value - 1) ∧
      (s.P.value - 1) * (s.Q.value - 1) < u.N.value ∧
      u.iterCnt.toNat = (egcd ((s.P.value - 1) * (s.Q.value - 1)) 65537).n ∧
      u = { s with
        lastOp := 3, done := true, err := false, errCode := 0, subcause := 0, errPos := 0
        doneIP := true, keyValid := true, retryCnt := 0, iterCnt := u.iterCnt
        N := u.N, D := u.D, P := wordsOf s.cfg.nw 0, Q := wordsOf s.cfg.nw 0
        PHI := wordsOf s.cfg.nw 0 }

/-- DERIVE on p and q whose φ is not coprime to 65537 ends with KEYGEN_FAILURE / NOT_COPRIME: PHI holds
φ, ITER_CNT the step count, and N, D, P and Q are unchanged (spec/41_keyderive.md R172, R180). -/
def Obligations.DeriveRejectsNonCoprime : Prop :=
  ∀ s : State, s.Inv → s.Ready → 2 ≤ s.P.value → 2 ≤ s.Q.value →
    s.P.value * s.Q.value < 2 ^ s.cfg.bw →
    Nat.gcd ((s.P.value - 1) * (s.Q.value - 1)) 65537 ≠ 1 →
    ∃ t u, exec .derive s = .next t ∧ takeTurns (controllerTurns 4) t = .next u ∧
      u.PHI.value = (s.P.value - 1) * (s.Q.value - 1) ∧
      u.iterCnt.toNat = (egcd ((s.P.value - 1) * (s.Q.value - 1)) 65537).n ∧
      u = { s with
        lastOp := 3, done := false, err := true, errCode := 4, subcause := 1, errPos := 0
        errIP := true, keyValid := false, retryCnt := 0, iterCnt := u.iterCnt, PHI := u.PHI }

/-- KEYGEN commits a key in its first attempt: the random source answers the words of two candidates,
the prime service answers p and q in range (at least 2, the intended law of the service being a prime),
and φ = (p−1)(q−1) is coprime to 65537. It is accepted, and after the answers the controller's steps
complete it with N = p·q, e·D ≡ 1 (mod φ) and 0 ≤ D < φ < N; P, Q and PHI read 0
(spec/41_keyderive.md R165, R166, R175, R176; the steps and the numbers of the answers are those of
notes/assumptions/4.md and 6.md). -/
def Obligations.KeygenCommitsKey : Prop :=
  ∀ (s : State) (wp wq : List Word) (p q : Nat), s.Inv → s.Ready →
    wp.length = s.cfg.candWords → wq.length = s.cfg.candWords →
    2 ≤ p → 2 ≤ q → BigReg.value wp ≤ p → BigReg.value wq ≤ q →
    p < 2 ^ (s.cfg.keyBits / 2 + 1) → q < 2 ^ (s.cfg.keyBits / 2 + 1) →
    Nat.gcd ((p - 1) * (q - 1)) 65537 = 1 →
    ∃ t k u, exec .keygen s = .next t ∧
      takeTurns
        (randomAnswers s.reqId wp ++ [.primeAnswer (s.reqId + wp.length) false p] ++
          randomAnswers (s.reqId + wp.length + 1) wq ++
          [.primeAnswer (s.reqId + wp.length + 1 + wq.length) false q] ++ controllerTurns k) t =
        .next u ∧
      u.N.value = p * q ∧
      65537 * u.D.value ≡ 1 [MOD (p - 1) * (q - 1)] ∧
      u.D.value < (p - 1) * (q - 1) ∧ (p - 1) * (q - 1) < u.N.value ∧
      u.iterCnt.toNat = (egcd ((p - 1) * (q - 1)) 65537).n ∧
      u = { s with
        lastOp := 2, done := true, err := false, errCode := 0, subcause := 0, errPos := 0
        doneIP := true, keyValid := true, retryCnt := 0, iterCnt := u.iterCnt
        N := u.N, D := u.D, P := wordsOf s.cfg.nw 0, Q := wordsOf s.cfg.nw 0
        PHI := wordsOf s.cfg.nw 0, reqId := s.reqId + wp.length + wq.length + 2 }

/-! ## The codec -/

/-- ENCODE accepts exactly the lengths up to LMAX: above it LENGTH_EXCEEDED ends the command before any
word is drawn or byte written; at or below it the filler is drawn, the first word being requested
exactly when the filler is not empty (spec/42_codec.md R201, R202). -/
def Obligations.EncodeLengthBound : Prop :=
  ∀ s : State, s.Ready → ∃ t u, exec .encode s = .next t ∧ t.request = none ∧
    takeTurn .controller t = .next u ∧
    (s.cfg.lmax < s.msgLen.toNat → u = { s with
      lastOp := 4, done := false, err := true, errCode := 2, subcause := 0, errPos := 0
      errIP := true }) ∧
    (s.msgLen.toNat ≤ s.cfg.lmax → u.err = false ∧ u.busy = true ∧ u.mem = s.mem ∧
      (u.request = some .randomWord ↔ 0 < s.cfg.dcap - 9 - 3 * s.msgLen.toNat))

/-- ENCODE builds the padded block: for a written message of L ≤ LMAX bytes and the F = D − 9 − 3·L words
that the random source answers, it is accepted and completes with BLK = "100002", the digits
1 + (w mod 9), "000", and the three digits of each byte; BLK_LEN = D; no other byte and no other
register changes but the outcome fields (spec/42_codec.md R200, R201, R203, R204; the steps and the
numbers of the answers are those of notes/assumptions/4.md and 6.md). -/
def Obligations.EncodeBuildsPaddedBlock : Prop :=
  ∀ (s : State) (msg : List Byte) (ws : List Word), s.Inv → s.Ready → s.MessageIs msg →
    msg.length ≤ s.cfg.lmax → ws.length = s.cfg.dcap - 9 - 3 * msg.length →
    ∃ t u, exec .encode s = .next t ∧
      takeTurns ([.controller] ++ randomAnswers s.reqId ws ++ [.controller]) t = .next u ∧
      u.bufBytes .blk s.cfg.dcap =
        (([0x31#8, 0x30#8, 0x30#8, 0x30#8, 0x30#8, 0x32#8] ++
          ws.map (fun w => BitVec.ofNat 8 (0x31 + w.toNat % 9)) ++
          [0x30#8, 0x30#8, 0x30#8] ++
          msg.flatMap (fun b => [BitVec.ofNat 8 (0x30 + b.toNat / 100),
            BitVec.ofNat 8 (0x30 + b.toNat / 10 % 10), BitVec.ofNat 8 (0x30 + b.toNat % 10)])).map
          some) ∧
      (∀ a, a < 0x3400 ∨ 0x3400 + s.cfg.dcap ≤ a → u.mem.read a = s.mem.read a) ∧
      u.blkLen.toNat = s.cfg.dcap ∧
      u = { s with
        lastOp := 4, done := true, err := false, errCode := 0, subcause := 0, errPos := 0
        doneIP := true, mem := u.mem, blkLen := u.blkLen, reqId := s.reqId + ws.length }

/-- The digits that DECODE accepts are exactly those of a block: six digits of header, whatever they are,
a filler with no 0, "000", and the three digits of each byte of the message
(spec/42_codec.md R210, R212, R213). -/
def Obligations.DecodeAcceptsExactlyBlocks : Prop :=
  ∀ (ds : List Nat) (msg : List Byte), (∀ d ∈ ds, d < 10) →
    (decodeDigits ds = .ok msg ↔
      ∃ h f : List Nat, h.length = 6 ∧ (∀ d ∈ f, d ≠ 0) ∧
        ds = h ++ f ++ [0, 0, 0] ++
          msg.flatMap fun b => [b.toNat / 100, b.toNat / 10 % 10, b.toNat % 10])

/-- DECODE of a block whose BLK_LEN digits are written and form a block is accepted and completes with
the message in MSG and its length in MSG_LEN; MSG beyond the message, BLK and BLK_LEN are unchanged, and
so is everything else but the outcome fields (spec/42_codec.md R210, R211). -/
def Obligations.DecodeCommandCompletes : Prop :=
  ∀ (s : State) (ds : List Nat) (msg : List Byte), s.Inv → s.Ready →
    s.blkLen.toNat ≤ s.cfg.dcap → (∀ d ∈ ds, d < 10) →
    s.bufBytes .blk s.blkLen.toNat = ds.map (fun d => some (BitVec.ofNat 8 (0x30 + d))) →
    decodeDigits ds = .ok msg →
    msg.length ≤ s.cfg.lmax ∧
    ∃ t u, exec .decode s = .next t ∧ takeTurn .controller t = .next u ∧
      u.bufBytes .msg msg.length = msg.map some ∧
      (∀ a, a < 0x3000 ∨ 0x3000 + msg.length ≤ a → u.mem.read a = s.mem.read a) ∧
      u.msgLen.toNat = msg.length ∧
      u = { s with
        lastOp := 5, done := true, err := false, errCode := 0, subcause := 0, errPos := 0
        doneIP := true, mem := u.mem, msgLen := u.msgLen }

/-- A DECODE that ends with an error writes nothing: MSG, MSG_LEN, BLK and BLK_LEN are unchanged; only the
outcome fields, with MALFORMED_BLOCK, and IRQ_STAT change. When the block's digits have a format error,
SUBCAUSE is the one that Table T60.1 gives its cause (NO_DELIMITER 3, BAD_DELIMITER 4, TRUNCATED_GROUP
5, CODE_RANGE 6) and ERR_POS is its position (spec/42_codec.md R210, R211;
spec/60_exceptions.md Table T60.1). -/
def Obligations.DecodeErrorWritesNothing : Prop :=
  (∀ s u : State, s.Inv → s.rst = false → s.ctrl = .deRun → takeTurn .controller s = .next u →
    u.done = false →
    u = { s with
      ctrl := .idle, err := true, errCode := 3, subcause := u.subcause, errPos := u.errPos
      errIP := true }) ∧
  (∀ (s : State) (ds : List Nat) (c : ErrCause) (pos : Nat), s.Inv → s.rst = false →
    s.ctrl = .deRun → s.blkLen.toNat ≤ s.cfg.dcap → (∀ d ∈ ds, d < 10) →
    s.bufBytes .blk s.blkLen.toNat = ds.map (fun d => some (BitVec.ofNat 8 (0x30 + d))) →
    decodeDigits ds = .error (c, pos) →
    ∃ u, takeTurn .controller s = .next u ∧
      ((c = .noDelimiter ∧ u.subcause = 3) ∨ (c = .badDelimiter ∧ u.subcause = 4) ∨
        (c = .truncatedGroup ∧ u.subcause = 5) ∨ (c = .codeRange ∧ u.subcause = 6)) ∧
      u.errPos.toNat = pos ∧
      u = { s with
        ctrl := .idle, err := true, errCode := 3, subcause := u.subcause, errPos := u.errPos
        errIP := true })

/-- The checks of DECODE before it looks for the delimiter, in order: BAD_LENGTH at 0 for n > D; then the
first byte that is not a digit is reported as NON_DIGIT at its index, unless a byte with a clear written
mark comes before it, which is the model fault UninitRead
(spec/42_codec.md R210; spec/10_state.md R52; spec/60_exceptions.md R264). That NON_DIGIT is reported
whatever the written marks of the bytes after it is the model's reading (notes/assumptions/19.md). -/
def Obligations.DecodeLengthAndDigitChecks : Prop :=
  ∀ s : State, s.Inv → s.rst = false → s.ctrl = .deRun →
    let failed (sub : BitVec 4) (pos : Nat) : Result := .next { s with
      ctrl := .idle, err := true, errCode := 3, subcause := sub, errPos := BitVec.ofNat 16 pos
      errIP := true }
    (s.cfg.dcap < s.blkLen.toNat → takeTurn .controller s = failed 1 0) ∧
    (s.blkLen.toNat ≤ s.cfg.dcap → ∀ j, j < s.blkLen.toNat →
      (∀ i, i < j → ∃ b : Byte, s.bufByte .blk i = some b ∧ 0x30 ≤ b.toNat ∧ b.toNat ≤ 0x39) →
      (∀ b : Byte, s.bufByte .blk j = some b → ¬(0x30 ≤ b.toNat ∧ b.toNat ≤ 0x39) →
        takeTurn .controller s = failed 2 j) ∧
      (s.bufByte .blk j = none → takeTurn .controller s = .fault (.uninitRead (0x3400 + j))))

/-- The format errors of DECODE and their positions, for a header h of six digits and a filler f with no
0: NO_DELIMITER at n for a short header or no 0, and at the 0 for a cut delimiter; BAD_DELIMITER at the
first delimiter digit that is not 0; TRUNCATED_GROUP at the first digit of the incomplete group;
CODE_RANGE at the first group above 255 (spec/42_codec.md R210; spec/60_exceptions.md Table T60.1). -/
def Obligations.DecodeFormatErrors : Prop :=
  (∀ ds : List Nat, ds.length < 6 → decodeDigits ds = .error (.noDelimiter, ds.length)) ∧
  ∀ h f : List Nat, h.length = 6 → (∀ d ∈ f, d ≠ 0) →
    decodeDigits (h ++ f) = .error (.noDelimiter, 6 + f.length) ∧
    decodeDigits (h ++ f ++ [0]) = .error (.noDelimiter, 6 + f.length) ∧
    (∀ d, decodeDigits (h ++ f ++ [0, d]) = .error (.noDelimiter, 6 + f.length)) ∧
    (∀ d e rest, d ≠ 0 →
      decodeDigits (h ++ f ++ [0, d, e] ++ rest) = .error (.badDelimiter, 6 + f.length + 1)) ∧
    (∀ e rest, e ≠ 0 →
      decodeDigits (h ++ f ++ [0, 0, e] ++ rest) = .error (.badDelimiter, 6 + f.length + 2)) ∧
    (∀ rest : List Nat, rest.length % 3 ≠ 0 →
      decodeDigits (h ++ f ++ [0, 0, 0] ++ rest) =
        .error (.truncatedGroup, 9 + f.length + rest.length - rest.length % 3)) ∧
    (∀ (msg : List Byte) (a b c : Nat) (rest : List Nat), rest.length % 3 = 0 →
      255 < 100 * a + 10 * b + c →
      decodeDigits (h ++ f ++ [0, 0, 0] ++
        (msg.flatMap fun m => [m.toNat / 100, m.toNat / 10 % 10, m.toNat % 10]) ++
        [a, b, c] ++ rest) = .error (.codeRange, 9 + f.length + 3 * msg.length))

/-- The round-trip law: after a successful ENCODE of any message of L ≤ LMAX bytes with any random words,
a DECODE, in any later idle state with the same BLK and BLK_LEN, succeeds and gives the message and its
length (spec/42_codec.md R215). -/
def Obligations.EncodeDecodeRoundTrip : Prop :=
  ∀ (s : State) (msg : List Byte) (ws : List Word), s.Inv → s.Ready → s.MessageIs msg →
    msg.length ≤ s.cfg.lmax → ws.length = s.cfg.dcap - 9 - 3 * msg.length →
    ∃ t u, exec .encode s = .next t ∧
      takeTurns ([.controller] ++ randomAnswers s.reqId ws ++ [.controller]) t = .next u ∧
      u.done = true ∧ u.Ready ∧
      ∀ v : State, v.Ready → v.cfg = u.cfg → v.blkLen = u.blkLen →
        v.bufBytes .blk s.cfg.dcap = u.bufBytes .blk s.cfg.dcap →
        ∃ w x, exec .decode v = .next w ∧ takeTurn .controller w = .next x ∧
          x.done = true ∧ x.err = false ∧
          x.bufBytes .msg msg.length = msg.map some ∧ x.msgLen.toNat = msg.length

/-! ## Rules of the whole machine -/

/-- Who writes the big-integer registers, over every step. A and B change only by the host's write to
them, which replaces the written word, of a block that is idle before or after the step; P and Q by such
a write, by the prime answer that KEYGEN accepts, or at KG_COMMIT; X, Y and G only in EG_RUN; N and D
only at KG_COMMIT; PHI only in KG_ARITH and KG_COMMIT; E never; and a reset makes each 0
(spec/10_state.md Table T10.3, R40-R47). -/
def Obligations.RegistersChangeOnlyByTheirWriters : Prop :=
  ∀ s t : State, step s = .next t → ∀ r : BigName, t.getBig r ≠ s.getBig r →
    let hostWrote : Prop := (s.busy = false ∨ t.busy = false) ∧
      ∃ i v, s.HostWrites (.big r i) v ∧ t.getBig r = (s.getBig r).set i v
    (s.Resets ∧ t.getBig r = List.replicate s.cfg.nw 0) ∨
    match r with
    | .A | .B => hostWrote
    | .X | .Y | .G => s.ctrl = .egRun
    | .P => hostWrote ∨ (∃ n c, s.ctrl = .kgPrimeP n c) ∨ ∃ cmd n d, s.ctrl = .kgCommit cmd n d
    | .Q => hostWrote ∨ (∃ n p c, s.ctrl = .kgPrimeQ n p c) ∨ ∃ cmd n d, s.ctrl = .kgCommit cmd n d
    | .N | .D => ∃ cmd n d, s.ctrl = .kgCommit cmd n d
    | .PHI => (∃ cmd p q, s.ctrl = .kgArith cmd p q) ∨ ∃ cmd n d, s.ctrl = .kgCommit cmd n d
    | .E => False

/-- KEYVALID is set only by the commit of a key, and cleared only by reset or by the acceptance of KEYGEN
or DERIVE (spec/10_state.md R29). -/
def Obligations.KeyValidChanges : Prop :=
  ∀ s t : State, step s = .next t →
    (s.keyValid = false → t.keyValid = true → ∃ cmd n d, s.ctrl = .kgCommit cmd n d) ∧
    (s.keyValid = true → t.keyValid = false →
      (t.ctrl = .idle ∧ t.lastOp = 0) ∨ (t.busy = true ∧ (t.lastOp = 2 ∨ t.lastOp = 3)))

/-- A command that does not complete with success changes none of N, D, X, Y, G, A, B, MSG, BLK, MSG_LEN
and BLK_LEN: no controller step and no answer of a service changes any of them, except the step that
completes the command with DONE = 1, so neither the step that raises an error nor any step before it
does (spec/60_exceptions.md R263). -/
def Obligations.FailingCommandKeepsResults : Prop :=
  ∀ (s u : State) (turn : Turn),
    (turn = .controller ∨ (∃ tag w, turn = .randomAnswer tag w) ∨
      ∃ tag e r, turn = .primeAnswer tag e r) →
    takeTurn turn s = .next u → u.done = false →
    u.N = s.N ∧ u.D = s.D ∧ u.X = s.X ∧ u.Y = s.Y ∧ u.G = s.G ∧ u.A = s.A ∧ u.B = s.B ∧
      u.mem = s.mem ∧ u.msgLen = s.msgLen ∧ u.blkLen = s.blkLen

/-- A step faults only where ENCODE or DECODE reads a byte whose written mark is clear. It is refused as
outsideWindow only where the host's next operation is an access whose address lies outside the window,
and as accessInReset only where the reset input is asserted and the host's next operation is an access
or POLL (spec/10_state.md R52; spec/60_exceptions.md R269; the refusals are the model's choice,
notes/assumptions/9.md, 10.md). -/
def Obligations.StopsOnlyWhereDeclared : Prop :=
  ∀ s : State, s.Inv →
    (∀ e, step s = .fault e → ∃ off, e = .uninitRead off ∧ s.mem.read off = none ∧
      (s.ctrl.command = some .encode ∨ s.ctrl.command = some .decode)) ∧
    (∀ e, step s = .refused e → s.HostMoves ∧
      ((e = .outsideWindow ∧ ∃ a rest, s.host = .access a :: rest ∧
          (a.addr < s.cfg.base ∨ s.cfg.base + 0x4000 ≤ a.addr)) ∨
       (e = .accessInReset ∧ s.rst = true ∧ ∃ op rest, s.host = op :: rest ∧ op ≠ .waitIrq)))

/-- A request that is not answered leaves the controller waiting: its turn changes nothing, and an answer
to another request, or of the wrong kind, is discarded (spec/41_keyderive.md R160, R162). The numbers of
the requests are the model's own (notes/assumptions/6.md). -/
def Obligations.UnansweredRequestWaits : Prop :=
  ∀ s : State, s.request.isSome = true →
    takeTurn .controller s = .next s ∧
    (∀ tag w, tag ≠ s.reqId → takeTurn (.randomAnswer tag w) s = .next s) ∧
    (∀ tag e r, tag ≠ s.reqId → takeTurn (.primeAnswer tag e r) s = .next s) ∧
    (∀ c, s.request = some (.nextPrime c) →
      ∀ tag w, takeTurn (.randomAnswer tag w) s = .next s) ∧
    (s.request = some .randomWord → ∀ tag e r, takeTurn (.primeAnswer tag e r) s = .next s)

/-- A late answer is discarded: the number of the pending or next request never falls, and a reset that
withdraws a request moves it on, so that the answer to the withdrawn request never matches again
(spec/43_control.md R241; spec/10_state.md Table T10.6). The numbers are the model's own
(notes/assumptions/6.md). -/
def Obligations.WithdrawnRequestNeverMatches : Prop :=
  (∀ s t : State, step s = .next t → s.reqId ≤ t.reqId) ∧
  (∀ s t : State, s.request.isSome = true → exec .sreset s = .next t → s.reqId < t.reqId) ∧
  (∀ s t : State, s.request.isSome = true → s.rst = true → takeTurn .releaseReset s = .next t →
    s.reqId < t.reqId)

/-- Whether the controller has a step, or which request is pending, never depends on the value of a drawn
word, but for the candidate sent to the prime service (spec/41_keyderive.md R160). -/
def Obligations.ProgressIndependentOfDraws : Prop :=
  ∀ (s u v : State) (tag : Nat) (w w' : Word),
    takeTurn (.randomAnswer tag w) s = .next u → takeTurn (.randomAnswer tag w') s = .next v →
    u.controllerReady = v.controllerReady ∧ u.busy = v.busy ∧
      u.request.map Request.isPrime = v.request.map Request.isPrime ∧ u.reqId = v.reqId ∧
      u.ctrl.command = v.ctrl.command

/-- POLL reads STATUS, with BUSY in bit 0 of the value read, and is repeated exactly while that bit is 1
(spec/30_encoding.md R107; notes/assumptions/12.md). -/
def Obligations.PollRepeatsWhileBusy : Prop :=
  ∀ (s : State) (rest : List HostOp), s.rst = false → s.host = .poll :: rest →
    takeTurn .host s = .next { s with
      host := if s.busy then .poll :: rest else rest
      trace := ⟨true, some s.statusWord⟩ :: s.trace } ∧
    s.statusWord.getLsbD 0 = s.busy

/-- WRBIG writes the register: its NW writes, made by the host of an idle block, leave the value in the
register and change nothing else (spec/30_encoding.md R107; spec/20_memory.md R71). -/
def Obligations.WriteBigWritesRegister : Prop :=
  ∀ (s : State) (r : BigName) (v : Nat) (rest : List HostOp), s.Inv → s.Ready →
    r.hostWritable = true → v < 2 ^ s.cfg.bw →
    s.host = Pseudo.expand s.cfg (.wrBig r v) ++ rest →
    ∃ u, takeTurns (List.replicate s.cfg.nw .host) s = .next u ∧ (u.getBig r).value = v ∧
      u = { s.setBig r (u.getBig r) with
        host := rest, trace := List.replicate s.cfg.nw ⟨true, none⟩ ++ s.trace }

/-! ## Invariants -/

/-- No step changes the parameters of the block (spec/00_scope.md R5, R9, R10: fixed at synthesis or by
the platform). -/
def Obligations.ParametersNeverChange : Prop := ∀ s t : State, step s = .next t → t.cfg = s.cfg

/-- A block with legal parameters meets the invariant right after reset. -/
def Obligations.ResetMeetsInvariant : Prop :=
  State.reset.Inv ∧ ∀ c : Config, c.wf = true → (State.resetOf c).Inv

/-- Every step keeps the invariant: legal parameters, registers of NW words, a canonical memory that
lists bytes of MSG and BLK only, consistent status fields with DONE and ERR never both 1 and only the
codes of Table T60.1, LAST_OP naming the executing command, and the latches of the key derivation and
the codec in their ranges (spec/10_state.md R24-R30, R36, R39, R48-R52; spec/60_exceptions.md R260). -/
def Obligations.EveryStepKeepsInvariant : Prop := ∀ s t : State, s.Inv → step s = .next t → t.Inv
end

