-- ==== Sys2Proof/Laws/BigReg.lean ====
section
/-!
SUPPORT. The laws of the big-integer registers: a value and its words (spec/20_memory.md R71).
-/

namespace Sys2Proof.Machine

@[simp] theorem length_wordsOf (k v : Nat) : (wordsOf k v).length = k := by
  induction k generalizing v with
  | zero => rfl
  | succ k ih => simp [wordsOf, ih]

theorem value_lt (ws : BigReg) : BigReg.value ws < 2 ^ (32 * ws.length) := by
  induction ws with
  | nil => simp [BigReg.value]
  | cons w ws ih =>
    have hw := w.isLt
    have : 2 ^ (32 * (ws.length + 1)) = 2 ^ 32 * 2 ^ (32 * ws.length) := by
      rw [← pow_add]; congr 1; omega
    simp only [BigReg.value, List.length_cons, this]
    have : 2 ^ 32 * (BigReg.value ws + 1) ≤ 2 ^ 32 * 2 ^ (32 * ws.length) := Nat.mul_le_mul_left _ ih
    omega

/-- A value read back from its words is the value, cut to their width. -/
theorem value_wordsOf (k v : Nat) : BigReg.value (wordsOf k v) = v % 2 ^ (32 * k) := by
  induction k generalizing v with
  | zero => simp [wordsOf, BigReg.value, Nat.mod_one]
  | succ k ih =>
    have : 2 ^ (32 * (k + 1)) = 2 ^ 32 * 2 ^ (32 * k) := by rw [← pow_add]; congr 1; omega
    rw [wordsOf, BigReg.value, ih, this, Nat.mod_mul, BitVec.toNat_ofNat]

theorem value_wordsOf_of_lt {k v : Nat} (h : v < 2 ^ (32 * k)) :
    BigReg.value (wordsOf k v) = v := by rw [value_wordsOf, Nat.mod_eq_of_lt h]

/-- The words of a register's value are its words. -/
theorem wordsOf_value (ws : BigReg) : wordsOf ws.length (BigReg.value ws) = ws := by
  induction ws with
  | nil => rfl
  | cons w ws ih =>
    have hw := w.isLt
    have h1 : (w.toNat + 2 ^ 32 * BigReg.value ws) / 2 ^ 32 = BigReg.value ws := by omega
    have h2 : BitVec.ofNat 32 (w.toNat + 2 ^ 32 * BigReg.value ws) = w := by
      apply BitVec.eq_of_toNat_eq; rw [BitVec.toNat_ofNat]; omega
    simp only [BigReg.value, List.length_cons, wordsOf, h1, h2, ih]

theorem wordsOf_zero (k : Nat) : wordsOf k 0 = List.replicate k 0 := by
  induction k with
  | zero => rfl
  | succ k ih => simp [wordsOf, ih, List.replicate_succ]

/-- Word `i` of a value holds its bits [32·i+31 : 32·i]. -/
theorem getD_wordsOf (k v i : Nat) (h : i < k) :
    (wordsOf k v).getD i 0 = BitVec.ofNat 32 (v / 2 ^ (32 * i)) := by
  induction k generalizing v i with
  | zero => omega
  | succ k ih =>
    cases i with
    | zero => simp [wordsOf]
    | succ i =>
      have : 2 ^ (32 * (i + 1)) = 2 ^ 32 * 2 ^ (32 * i) := by rw [← pow_add]; congr 1; omega
      rw [wordsOf, List.getD_cons_succ, ih _ _ (by omega), Nat.div_div_eq_div_mul, this]

/-- BW is 32·NW for a legal key length (spec/00_scope.md R6). -/
theorem bw_eq_of_wf {c : Config} (h : c.wf = true) : c.bw = 32 * c.nw := by
  simp only [Config.wf, Config.keyBitsWhole, Config.keyBitsInRange, Bool.and_eq_true, beq_iff_eq] at h
  simp only [Config.bw, Config.nw]
  omega

end Sys2Proof.Machine
end

