-- ==== Sys2Proof/Laws/Codec.lean ====
section
/-!
SUPPORT. The reads of the codec: what ENCODE's read of the message and DECODE's scan of the block
answer, and the length of a padded block (spec/42_codec.md R200, R210; spec/10_state.md R52).
-/

namespace Sys2Proof.Machine

/-- A command's read succeeds exactly on written bytes, and gives them. -/
theorem commandRead_ok_iff (l : List (Option Byte)) (off : Nat) (bs : List Byte) :
    commandRead off l = .ok bs ↔ l = bs.map some := by
  induction l generalizing off bs with
  | nil => cases bs <;> simp [commandRead]
  | cons o l ih =>
    cases o with
    | none => cases bs <;> simp [commandRead]
    | some b =>
      simp only [commandRead]
      cases h : commandRead (off + 1) l with
      | ok bs' =>
        have := (ih (off + 1) bs').mp h
        subst this
        cases bs with
        | nil => simp
        | cons b' bs => simp [List.map_inj_right]
      | error e =>
        cases bs with
        | nil => simp
        | cons b' bs =>
          have := mt (ih (off + 1) bs).mpr (by simp [h])
          simp [this]

/-- A command's read of written bytes. -/
theorem commandRead_map_some (off : Nat) (bs : List Byte) :
    commandRead off (bs.map some) = .ok bs := (commandRead_ok_iff _ _ _).mpr rfl

/-- A command's read fails at the first byte with a clear written mark. -/
theorem commandRead_error {l : List (Option Byte)} {off a : Nat} (h : commandRead off l = .error a) :
    ∃ i, a = off + i ∧ l[i]? = some none := by
  induction l generalizing off with
  | nil => cases h
  | cons o l ih =>
    cases o with
    | none => cases h; exact ⟨0, rfl, rfl⟩
    | some b =>
      simp only [commandRead] at h
      split at h
      · cases h
      · rename_i e he
        cases h
        obtain ⟨i, rfl, hi⟩ := ih he
        exact ⟨i + 1, by omega, by simpa using hi⟩

/-- The scan of digits gives their values. -/
theorem scanDigits_digits (bs : List Byte) (j : Nat) (h : ∀ b ∈ bs, isDig b = true) :
    scanDigits j (bs.map some) = .digits (bs.map dig) := by
  induction bs generalizing j with
  | nil => rfl
  | cons b bs ih =>
    have hb := h b (by simp)
    simp [scanDigits, hb, ih (j + 1) fun b hb => h b (by simp [hb])]

/-- A digit's character is a digit, and reads back as the digit. -/
theorem isDig_chr {d : Nat} (h : d < 10) : isDig (chr d) = true ∧ dig (chr d) = d := by
  have : (chr d).toNat = 0x30 + d := by simp [chr]; omega
  simp [isDig, dig, this]; omega

/-- Three digits a byte. -/
theorem length_groups (msg : List Byte) : (msg.flatMap fun b => dec3 b.toNat).length = 3 * msg.length := by
  induction msg with
  | nil => rfl
  | cons b msg ih =>
    rw [List.flatMap_cons, List.length_append, ih]
    simp only [dec3, List.length_cons, List.length_nil]
    omega

/-- The length of a padded block. -/
theorem length_paddedBlock (filler msg : List Byte) :
    (paddedBlock filler msg).length = 9 + filler.length + 3 * msg.length := by
  simp only [paddedBlock, List.length_append, length_groups, header, delimiter, List.length_cons,
    List.length_nil]
  omega

end Sys2Proof.Machine
end

