-- ==== Sys2Proof/Laws/State.lean ====
section
/-!
SUPPORT. What each shared update of the state does to each field, so that no proof unfolds a record
update.
-/

namespace Sys2Proof.Machine

@[simp] theorem accept_cfg (s : State) (i : Instr) : (s.accept i).cfg = s.cfg := rfl
@[simp] theorem accept_ctrl (s : State) (i : Instr) : (s.accept i).ctrl = s.ctrl := rfl
@[simp] theorem accept_lastOp (s : State) (i : Instr) : (s.accept i).lastOp = i.op := rfl
@[simp] theorem accept_done (s : State) (i : Instr) : (s.accept i).done = false := rfl
@[simp] theorem accept_err (s : State) (i : Instr) : (s.accept i).err = false := rfl
@[simp] theorem accept_keyValid (s : State) (i : Instr) : (s.accept i).keyValid = s.keyValid := rfl
@[simp] theorem accept_errCode (s : State) (i : Instr) : (s.accept i).errCode = 0 := rfl
@[simp] theorem accept_subcause (s : State) (i : Instr) : (s.accept i).subcause = 0 := rfl
@[simp] theorem accept_rej (s : State) (i : Instr) : (s.accept i).rej = s.rej := rfl
@[simp] theorem accept_wign (s : State) (i : Instr) : (s.accept i).wign = s.wign := rfl
@[simp] theorem accept_busErr (s : State) (i : Instr) : (s.accept i).busErr = s.busErr := rfl
@[simp] theorem accept_doneIE (s : State) (i : Instr) : (s.accept i).doneIE = s.doneIE := rfl
@[simp] theorem accept_errIE (s : State) (i : Instr) : (s.accept i).errIE = s.errIE := rfl
@[simp] theorem accept_doneIP (s : State) (i : Instr) : (s.accept i).doneIP = s.doneIP := rfl
@[simp] theorem accept_errIP (s : State) (i : Instr) : (s.accept i).errIP = s.errIP := rfl
@[simp] theorem accept_msgLen (s : State) (i : Instr) : (s.accept i).msgLen = s.msgLen := rfl
@[simp] theorem accept_blkLen (s : State) (i : Instr) : (s.accept i).blkLen = s.blkLen := rfl
@[simp] theorem accept_errPos (s : State) (i : Instr) : (s.accept i).errPos = 0 := rfl
@[simp] theorem accept_iterCnt (s : State) (i : Instr) : (s.accept i).iterCnt = s.iterCnt := rfl
@[simp] theorem accept_retryCnt (s : State) (i : Instr) : (s.accept i).retryCnt = s.retryCnt := rfl
@[simp] theorem accept_A (s : State) (i : Instr) : (s.accept i).A = s.A := rfl
@[simp] theorem accept_B (s : State) (i : Instr) : (s.accept i).B = s.B := rfl
@[simp] theorem accept_X (s : State) (i : Instr) : (s.accept i).X = s.X := rfl
@[simp] theorem accept_Y (s : State) (i : Instr) : (s.accept i).Y = s.Y := rfl
@[simp] theorem accept_G (s : State) (i : Instr) : (s.accept i).G = s.G := rfl
@[simp] theorem accept_P (s : State) (i : Instr) : (s.accept i).P = s.P := rfl
@[simp] theorem accept_Q (s : State) (i : Instr) : (s.accept i).Q = s.Q := rfl
@[simp] theorem accept_N (s : State) (i : Instr) : (s.accept i).N = s.N := rfl
@[simp] theorem accept_PHI (s : State) (i : Instr) : (s.accept i).PHI = s.PHI := rfl
@[simp] theorem accept_D (s : State) (i : Instr) : (s.accept i).D = s.D := rfl
@[simp] theorem accept_mem (s : State) (i : Instr) : (s.accept i).mem = s.mem := rfl
@[simp] theorem accept_rst (s : State) (i : Instr) : (s.accept i).rst = s.rst := rfl
@[simp] theorem accept_host (s : State) (i : Instr) : (s.accept i).host = s.host := rfl
@[simp] theorem accept_turns (s : State) (i : Instr) : (s.accept i).turns = s.turns := rfl
@[simp] theorem accept_trace (s : State) (i : Instr) : (s.accept i).trace = s.trace := rfl
@[simp] theorem accept_reqId (s : State) (i : Instr) : (s.accept i).reqId = s.reqId := rfl
@[simp] theorem accept_draws (s : State) (i : Instr) : (s.accept i).draws = s.draws := rfl

@[simp] theorem startKey_cfg (s : State) : (s.startKey).cfg = s.cfg := rfl
@[simp] theorem startKey_ctrl (s : State) : (s.startKey).ctrl = s.ctrl := rfl
@[simp] theorem startKey_lastOp (s : State) : (s.startKey).lastOp = s.lastOp := rfl
@[simp] theorem startKey_done (s : State) : (s.startKey).done = s.done := rfl
@[simp] theorem startKey_err (s : State) : (s.startKey).err = s.err := rfl
@[simp] theorem startKey_keyValid (s : State) : (s.startKey).keyValid = false := rfl
@[simp] theorem startKey_errCode (s : State) : (s.startKey).errCode = s.errCode := rfl
@[simp] theorem startKey_subcause (s : State) : (s.startKey).subcause = s.subcause := rfl
@[simp] theorem startKey_rej (s : State) : (s.startKey).rej = s.rej := rfl
@[simp] theorem startKey_wign (s : State) : (s.startKey).wign = s.wign := rfl
@[simp] theorem startKey_busErr (s : State) : (s.startKey).busErr = s.busErr := rfl
@[simp] theorem startKey_doneIE (s : State) : (s.startKey).doneIE = s.doneIE := rfl
@[simp] theorem startKey_errIE (s : State) : (s.startKey).errIE = s.errIE := rfl
@[simp] theorem startKey_doneIP (s : State) : (s.startKey).doneIP = s.doneIP := rfl
@[simp] theorem startKey_errIP (s : State) : (s.startKey).errIP = s.errIP := rfl
@[simp] theorem startKey_msgLen (s : State) : (s.startKey).msgLen = s.msgLen := rfl
@[simp] theorem startKey_blkLen (s : State) : (s.startKey).blkLen = s.blkLen := rfl
@[simp] theorem startKey_errPos (s : State) : (s.startKey).errPos = s.errPos := rfl
@[simp] theorem startKey_iterCnt (s : State) : (s.startKey).iterCnt = s.iterCnt := rfl
@[simp] theorem startKey_retryCnt (s : State) : (s.startKey).retryCnt = 0 := rfl
@[simp] theorem startKey_A (s : State) : (s.startKey).A = s.A := rfl
@[simp] theorem startKey_B (s : State) : (s.startKey).B = s.B := rfl
@[simp] theorem startKey_X (s : State) : (s.startKey).X = s.X := rfl
@[simp] theorem startKey_Y (s : State) : (s.startKey).Y = s.Y := rfl
@[simp] theorem startKey_G (s : State) : (s.startKey).G = s.G := rfl
@[simp] theorem startKey_P (s : State) : (s.startKey).P = s.P := rfl
@[simp] theorem startKey_Q (s : State) : (s.startKey).Q = s.Q := rfl
@[simp] theorem startKey_N (s : State) : (s.startKey).N = s.N := rfl
@[simp] theorem startKey_PHI (s : State) : (s.startKey).PHI = s.PHI := rfl
@[simp] theorem startKey_D (s : State) : (s.startKey).D = s.D := rfl
@[simp] theorem startKey_mem (s : State) : (s.startKey).mem = s.mem := rfl
@[simp] theorem startKey_rst (s : State) : (s.startKey).rst = s.rst := rfl
@[simp] theorem startKey_host (s : State) : (s.startKey).host = s.host := rfl
@[simp] theorem startKey_turns (s : State) : (s.startKey).turns = s.turns := rfl
@[simp] theorem startKey_trace (s : State) : (s.startKey).trace = s.trace := rfl
@[simp] theorem startKey_reqId (s : State) : (s.startKey).reqId = s.reqId := rfl
@[simp] theorem startKey_draws (s : State) : (s.startKey).draws = s.draws := rfl

@[simp] theorem complete_cfg (s : State) : (complete s).cfg = s.cfg := rfl
@[simp] theorem complete_ctrl (s : State) : (complete s).ctrl = .idle := rfl
@[simp] theorem complete_lastOp (s : State) : (complete s).lastOp = s.lastOp := rfl
@[simp] theorem complete_done (s : State) : (complete s).done = true := rfl
@[simp] theorem complete_err (s : State) : (complete s).err = s.err := rfl
@[simp] theorem complete_keyValid (s : State) : (complete s).keyValid = s.keyValid := rfl
@[simp] theorem complete_errCode (s : State) : (complete s).errCode = s.errCode := rfl
@[simp] theorem complete_subcause (s : State) : (complete s).subcause = s.subcause := rfl
@[simp] theorem complete_rej (s : State) : (complete s).rej = s.rej := rfl
@[simp] theorem complete_wign (s : State) : (complete s).wign = s.wign := rfl
@[simp] theorem complete_busErr (s : State) : (complete s).busErr = s.busErr := rfl
@[simp] theorem complete_doneIE (s : State) : (complete s).doneIE = s.doneIE := rfl
@[simp] theorem complete_errIE (s : State) : (complete s).errIE = s.errIE := rfl
@[simp] theorem complete_doneIP (s : State) : (complete s).doneIP = true := rfl
@[simp] theorem complete_errIP (s : State) : (complete s).errIP = s.errIP := rfl
@[simp] theorem complete_msgLen (s : State) : (complete s).msgLen = s.msgLen := rfl
@[simp] theorem complete_blkLen (s : State) : (complete s).blkLen = s.blkLen := rfl
@[simp] theorem complete_errPos (s : State) : (complete s).errPos = s.errPos := rfl
@[simp] theorem complete_iterCnt (s : State) : (complete s).iterCnt = s.iterCnt := rfl
@[simp] theorem complete_retryCnt (s : State) : (complete s).retryCnt = s.retryCnt := rfl
@[simp] theorem complete_A (s : State) : (complete s).A = s.A := rfl
@[simp] theorem complete_B (s : State) : (complete s).B = s.B := rfl
@[simp] theorem complete_X (s : State) : (complete s).X = s.X := rfl
@[simp] theorem complete_Y (s : State) : (complete s).Y = s.Y := rfl
@[simp] theorem complete_G (s : State) : (complete s).G = s.G := rfl
@[simp] theorem complete_P (s : State) : (complete s).P = s.P := rfl
@[simp] theorem complete_Q (s : State) : (complete s).Q = s.Q := rfl
@[simp] theorem complete_N (s : State) : (complete s).N = s.N := rfl
@[simp] theorem complete_PHI (s : State) : (complete s).PHI = s.PHI := rfl
@[simp] theorem complete_D (s : State) : (complete s).D = s.D := rfl
@[simp] theorem complete_mem (s : State) : (complete s).mem = s.mem := rfl
@[simp] theorem complete_rst (s : State) : (complete s).rst = s.rst := rfl
@[simp] theorem complete_host (s : State) : (complete s).host = s.host := rfl
@[simp] theorem complete_turns (s : State) : (complete s).turns = s.turns := rfl
@[simp] theorem complete_trace (s : State) : (complete s).trace = s.trace := rfl
@[simp] theorem complete_reqId (s : State) : (complete s).reqId = s.reqId := rfl
@[simp] theorem complete_draws (s : State) : (complete s).draws = s.draws := rfl

@[simp] theorem raiseErr_cfg (s : State) (c : ErrCause) (pos : Nat) :
    (raiseErr c pos s).cfg = s.cfg := rfl
@[simp] theorem raiseErr_ctrl (s : State) (c : ErrCause) (pos : Nat) :
    (raiseErr c pos s).ctrl = .idle := rfl
@[simp] theorem raiseErr_lastOp (s : State) (c : ErrCause) (pos : Nat) :
    (raiseErr c pos s).lastOp = s.lastOp := rfl
@[simp] theorem raiseErr_done (s : State) (c : ErrCause) (pos : Nat) :
    (raiseErr c pos s).done = s.done := rfl
@[simp] theorem raiseErr_err (s : State) (c : ErrCause) (pos : Nat) :
    (raiseErr c pos s).err = true := rfl
@[simp] theorem raiseErr_keyValid (s : State) (c : ErrCause) (pos : Nat) :
    (raiseErr c pos s).keyValid = s.keyValid := rfl
@[simp] theorem raiseErr_errCode (s : State) (c : ErrCause) (pos : Nat) :
    (raiseErr c pos s).errCode = c.code := rfl
@[simp] theorem raiseErr_subcause (s : State) (c : ErrCause) (pos : Nat) :
    (raiseErr c pos s).subcause = c.sub := rfl
@[simp] theorem raiseErr_rej (s : State) (c : ErrCause) (pos : Nat) :
    (raiseErr c pos s).rej = s.rej := rfl
@[simp] theorem raiseErr_wign (s : State) (c : ErrCause) (pos : Nat) :
    (raiseErr c pos s).wign = s.wign := rfl
@[simp] theorem raiseErr_busErr (s : State) (c : ErrCause) (pos : Nat) :
    (raiseErr c pos s).busErr = s.busErr := rfl
@[simp] theorem raiseErr_doneIE (s : State) (c : ErrCause) (pos : Nat) :
    (raiseErr c pos s).doneIE = s.doneIE := rfl
@[simp] theorem raiseErr_errIE (s : State) (c : ErrCause) (pos : Nat) :
    (raiseErr c pos s).errIE = s.errIE := rfl
@[simp] theorem raiseErr_doneIP (s : State) (c : ErrCause) (pos : Nat) :
    (raiseErr c pos s).doneIP = s.doneIP := rfl
@[simp] theorem raiseErr_errIP (s : State) (c : ErrCause) (pos : Nat) :
    (raiseErr c pos s).errIP = true := rfl
@[simp] theorem raiseErr_msgLen (s : State) (c : ErrCause) (pos : Nat) :
    (raiseErr c pos s).msgLen = s.msgLen := rfl
@[simp] theorem raiseErr_blkLen (s : State) (c : ErrCause) (pos : Nat) :
    (raiseErr c pos s).blkLen = s.blkLen := rfl
@[simp] theorem raiseErr_errPos (s : State) (c : ErrCause) (pos : Nat) :
    (raiseErr c pos s).errPos = BitVec.ofNat 16 pos := rfl
@[simp] theorem raiseErr_iterCnt (s : State) (c : ErrCause) (pos : Nat) :
    (raiseErr c pos s).iterCnt = s.iterCnt := rfl
@[simp] theorem raiseErr_retryCnt (s : State) (c : ErrCause) (pos : Nat) :
    (raiseErr c pos s).retryCnt = s.retryCnt := rfl
@[simp] theorem raiseErr_A (s : State) (c : ErrCause) (pos : Nat) :
    (raiseErr c pos s).A = s.A := rfl
@[simp] theorem raiseErr_B (s : State) (c : ErrCause) (pos : Nat) :
    (raiseErr c pos s).B = s.B := rfl
@[simp] theorem raiseErr_X (s : State) (c : ErrCause) (pos : Nat) :
    (raiseErr c pos s).X = s.X := rfl
@[simp] theorem raiseErr_Y (s : State) (c : ErrCause) (pos : Nat) :
    (raiseErr c pos s).Y = s.Y := rfl
@[simp] theorem raiseErr_G (s : State) (c : ErrCause) (pos : Nat) :
    (raiseErr c pos s).G = s.G := rfl
@[simp] theorem raiseErr_P (s : State) (c : ErrCause) (pos : Nat) :
    (raiseErr c pos s).P = s.P := rfl
@[simp] theorem raiseErr_Q (s : State) (c : ErrCause) (pos : Nat) :
    (raiseErr c pos s).Q = s.Q := rfl
@[simp] theorem raiseErr_N (s : State) (c : ErrCause) (pos : Nat) :
    (raiseErr c pos s).N = s.N := rfl
@[simp] theorem raiseErr_PHI (s : State) (c : ErrCause) (pos : Nat) :
    (raiseErr c pos s).PHI = s.PHI := rfl
@[simp] theorem raiseErr_D (s : State) (c : ErrCause) (pos : Nat) :
    (raiseErr c pos s).D = s.D := rfl
@[simp] theorem raiseErr_mem (s : State) (c : ErrCause) (pos : Nat) :
    (raiseErr c pos s).mem = s.mem := rfl
@[simp] theorem raiseErr_rst (s : State) (c : ErrCause) (pos : Nat) :
    (raiseErr c pos s).rst = s.rst := rfl
@[simp] theorem raiseErr_host (s : State) (c : ErrCause) (pos : Nat) :
    (raiseErr c pos s).host = s.host := rfl
@[simp] theorem raiseErr_turns (s : State) (c : ErrCause) (pos : Nat) :
    (raiseErr c pos s).turns = s.turns := rfl
@[simp] theorem raiseErr_trace (s : State) (c : ErrCause) (pos : Nat) :
    (raiseErr c pos s).trace = s.trace := rfl
@[simp] theorem raiseErr_reqId (s : State) (c : ErrCause) (pos : Nat) :
    (raiseErr c pos s).reqId = s.reqId := rfl
@[simp] theorem raiseErr_draws (s : State) (c : ErrCause) (pos : Nat) :
    (raiseErr c pos s).draws = s.draws := rfl

@[simp] theorem okay_cfg (s : State) (v : Option Word) : (s.okay v).cfg = s.cfg := rfl
@[simp] theorem okay_ctrl (s : State) (v : Option Word) : (s.okay v).ctrl = s.ctrl := rfl
@[simp] theorem okay_lastOp (s : State) (v : Option Word) : (s.okay v).lastOp = s.lastOp := rfl
@[simp] theorem okay_done (s : State) (v : Option Word) : (s.okay v).done = s.done := rfl
@[simp] theorem okay_err (s : State) (v : Option Word) : (s.okay v).err = s.err := rfl
@[simp] theorem okay_keyValid (s : State) (v : Option Word) :
    (s.okay v).keyValid = s.keyValid := rfl
@[simp] theorem okay_errCode (s : State) (v : Option Word) : (s.okay v).errCode = s.errCode := rfl
@[simp] theorem okay_subcause (s : State) (v : Option Word) :
    (s.okay v).subcause = s.subcause := rfl
@[simp] theorem okay_rej (s : State) (v : Option Word) : (s.okay v).rej = s.rej := rfl
@[simp] theorem okay_wign (s : State) (v : Option Word) : (s.okay v).wign = s.wign := rfl
@[simp] theorem okay_busErr (s : State) (v : Option Word) : (s.okay v).busErr = s.busErr := rfl
@[simp] theorem okay_doneIE (s : State) (v : Option Word) : (s.okay v).doneIE = s.doneIE := rfl
@[simp] theorem okay_errIE (s : State) (v : Option Word) : (s.okay v).errIE = s.errIE := rfl
@[simp] theorem okay_doneIP (s : State) (v : Option Word) : (s.okay v).doneIP = s.doneIP := rfl
@[simp] theorem okay_errIP (s : State) (v : Option Word) : (s.okay v).errIP = s.errIP := rfl
@[simp] theorem okay_msgLen (s : State) (v : Option Word) : (s.okay v).msgLen = s.msgLen := rfl
@[simp] theorem okay_blkLen (s : State) (v : Option Word) : (s.okay v).blkLen = s.blkLen := rfl
@[simp] theorem okay_errPos (s : State) (v : Option Word) : (s.okay v).errPos = s.errPos := rfl
@[simp] theorem okay_iterCnt (s : State) (v : Option Word) : (s.okay v).iterCnt = s.iterCnt := rfl
@[simp] theorem okay_retryCnt (s : State) (v : Option Word) :
    (s.okay v).retryCnt = s.retryCnt := rfl
@[simp] theorem okay_A (s : State) (v : Option Word) : (s.okay v).A = s.A := rfl
@[simp] theorem okay_B (s : State) (v : Option Word) : (s.okay v).B = s.B := rfl
@[simp] theorem okay_X (s : State) (v : Option Word) : (s.okay v).X = s.X := rfl
@[simp] theorem okay_Y (s : State) (v : Option Word) : (s.okay v).Y = s.Y := rfl
@[simp] theorem okay_G (s : State) (v : Option Word) : (s.okay v).G = s.G := rfl
@[simp] theorem okay_P (s : State) (v : Option Word) : (s.okay v).P = s.P := rfl
@[simp] theorem okay_Q (s : State) (v : Option Word) : (s.okay v).Q = s.Q := rfl
@[simp] theorem okay_N (s : State) (v : Option Word) : (s.okay v).N = s.N := rfl
@[simp] theorem okay_PHI (s : State) (v : Option Word) : (s.okay v).PHI = s.PHI := rfl
@[simp] theorem okay_D (s : State) (v : Option Word) : (s.okay v).D = s.D := rfl
@[simp] theorem okay_mem (s : State) (v : Option Word) : (s.okay v).mem = s.mem := rfl
@[simp] theorem okay_rst (s : State) (v : Option Word) : (s.okay v).rst = s.rst := rfl
@[simp] theorem okay_host (s : State) (v : Option Word) : (s.okay v).host = s.host := rfl
@[simp] theorem okay_turns (s : State) (v : Option Word) : (s.okay v).turns = s.turns := rfl
@[simp] theorem okay_trace (s : State) (v : Option Word) :
    (s.okay v).trace = ⟨true, v⟩ :: s.trace := rfl
@[simp] theorem okay_reqId (s : State) (v : Option Word) : (s.okay v).reqId = s.reqId := rfl
@[simp] theorem okay_draws (s : State) (v : Option Word) : (s.okay v).draws = s.draws := rfl

@[simp] theorem busError_cfg (s : State) (v : Option Word) : (s.busError v).cfg = s.cfg := rfl
@[simp] theorem busError_ctrl (s : State) (v : Option Word) : (s.busError v).ctrl = s.ctrl := rfl
@[simp] theorem busError_lastOp (s : State) (v : Option Word) :
    (s.busError v).lastOp = s.lastOp := rfl
@[simp] theorem busError_done (s : State) (v : Option Word) : (s.busError v).done = s.done := rfl
@[simp] theorem busError_err (s : State) (v : Option Word) : (s.busError v).err = s.err := rfl
@[simp] theorem busError_keyValid (s : State) (v : Option Word) :
    (s.busError v).keyValid = s.keyValid := rfl
@[simp] theorem busError_errCode (s : State) (v : Option Word) :
    (s.busError v).errCode = s.errCode := rfl
@[simp] theorem busError_subcause (s : State) (v : Option Word) :
    (s.busError v).subcause = s.subcause := rfl
@[simp] theorem busError_rej (s : State) (v : Option Word) : (s.busError v).rej = s.rej := rfl
@[simp] theorem busError_wign (s : State) (v : Option Word) : (s.busError v).wign = s.wign := rfl
@[simp] theorem busError_busErr (s : State) (v : Option Word) : (s.busError v).busErr = true := rfl
@[simp] theorem busError_doneIE (s : State) (v : Option Word) :
    (s.busError v).doneIE = s.doneIE := rfl
@[simp] theorem busError_errIE (s : State) (v : Option Word) : (s.busError v).errIE = s.errIE := rfl
@[simp] theorem busError_doneIP (s : State) (v : Option Word) :
    (s.busError v).doneIP = s.doneIP := rfl
@[simp] theorem busError_errIP (s : State) (v : Option Word) : (s.busError v).errIP = s.errIP := rfl
@[simp] theorem busError_msgLen (s : State) (v : Option Word) :
    (s.busError v).msgLen = s.msgLen := rfl
@[simp] theorem busError_blkLen (s : State) (v : Option Word) :
    (s.busError v).blkLen = s.blkLen := rfl
@[simp] theorem busError_errPos (s : State) (v : Option Word) :
    (s.busError v).errPos = s.errPos := rfl
@[simp] theorem busError_iterCnt (s : State) (v : Option Word) :
    (s.busError v).iterCnt = s.iterCnt := rfl
@[simp] theorem busError_retryCnt (s : State) (v : Option Word) :
    (s.busError v).retryCnt = s.retryCnt := rfl
@[simp] theorem busError_A (s : State) (v : Option Word) : (s.busError v).A = s.A := rfl
@[simp] theorem busError_B (s : State) (v : Option Word) : (s.busError v).B = s.B := rfl
@[simp] theorem busError_X (s : State) (v : Option Word) : (s.busError v).X = s.X := rfl
@[simp] theorem busError_Y (s : State) (v : Option Word) : (s.busError v).Y = s.Y := rfl
@[simp] theorem busError_G (s : State) (v : Option Word) : (s.busError v).G = s.G := rfl
@[simp] theorem busError_P (s : State) (v : Option Word) : (s.busError v).P = s.P := rfl
@[simp] theorem busError_Q (s : State) (v : Option Word) : (s.busError v).Q = s.Q := rfl
@[simp] theorem busError_N (s : State) (v : Option Word) : (s.busError v).N = s.N := rfl
@[simp] theorem busError_PHI (s : State) (v : Option Word) : (s.busError v).PHI = s.PHI := rfl
@[simp] theorem busError_D (s : State) (v : Option Word) : (s.busError v).D = s.D := rfl
@[simp] theorem busError_mem (s : State) (v : Option Word) : (s.busError v).mem = s.mem := rfl
@[simp] theorem busError_rst (s : State) (v : Option Word) : (s.busError v).rst = s.rst := rfl
@[simp] theorem busError_host (s : State) (v : Option Word) : (s.busError v).host = s.host := rfl
@[simp] theorem busError_turns (s : State) (v : Option Word) : (s.busError v).turns = s.turns := rfl
@[simp] theorem busError_trace (s : State) (v : Option Word) :
    (s.busError v).trace = ⟨false, v⟩ :: s.trace := rfl
@[simp] theorem busError_reqId (s : State) (v : Option Word) : (s.busError v).reqId = s.reqId := rfl
@[simp] theorem busError_draws (s : State) (v : Option Word) : (s.busError v).draws = s.draws := rfl

@[simp] theorem writeBuf_cfg (s : State) (b : Buf) (bs : List Byte) :
    (s.writeBuf b bs).cfg = s.cfg := rfl
@[simp] theorem writeBuf_ctrl (s : State) (b : Buf) (bs : List Byte) :
    (s.writeBuf b bs).ctrl = s.ctrl := rfl
@[simp] theorem writeBuf_lastOp (s : State) (b : Buf) (bs : List Byte) :
    (s.writeBuf b bs).lastOp = s.lastOp := rfl
@[simp] theorem writeBuf_done (s : State) (b : Buf) (bs : List Byte) :
    (s.writeBuf b bs).done = s.done := rfl
@[simp] theorem writeBuf_err (s : State) (b : Buf) (bs : List Byte) :
    (s.writeBuf b bs).err = s.err := rfl
@[simp] theorem writeBuf_keyValid (s : State) (b : Buf) (bs : List Byte) :
    (s.writeBuf b bs).keyValid = s.keyValid := rfl
@[simp] theorem writeBuf_errCode (s : State) (b : Buf) (bs : List Byte) :
    (s.writeBuf b bs).errCode = s.errCode := rfl
@[simp] theorem writeBuf_subcause (s : State) (b : Buf) (bs : List Byte) :
    (s.writeBuf b bs).subcause = s.subcause := rfl
@[simp] theorem writeBuf_rej (s : State) (b : Buf) (bs : List Byte) :
    (s.writeBuf b bs).rej = s.rej := rfl
@[simp] theorem writeBuf_wign (s : State) (b : Buf) (bs : List Byte) :
    (s.writeBuf b bs).wign = s.wign := rfl
@[simp] theorem writeBuf_busErr (s : State) (b : Buf) (bs : List Byte) :
    (s.writeBuf b bs).busErr = s.busErr := rfl
@[simp] theorem writeBuf_doneIE (s : State) (b : Buf) (bs : List Byte) :
    (s.writeBuf b bs).doneIE = s.doneIE := rfl
@[simp] theorem writeBuf_errIE (s : State) (b : Buf) (bs : List Byte) :
    (s.writeBuf b bs).errIE = s.errIE := rfl
@[simp] theorem writeBuf_doneIP (s : State) (b : Buf) (bs : List Byte) :
    (s.writeBuf b bs).doneIP = s.doneIP := rfl
@[simp] theorem writeBuf_errIP (s : State) (b : Buf) (bs : List Byte) :
    (s.writeBuf b bs).errIP = s.errIP := rfl
@[simp] theorem writeBuf_msgLen (s : State) (b : Buf) (bs : List Byte) :
    (s.writeBuf b bs).msgLen = s.msgLen := rfl
@[simp] theorem writeBuf_blkLen (s : State) (b : Buf) (bs : List Byte) :
    (s.writeBuf b bs).blkLen = s.blkLen := rfl
@[simp] theorem writeBuf_errPos (s : State) (b : Buf) (bs : List Byte) :
    (s.writeBuf b bs).errPos = s.errPos := rfl
@[simp] theorem writeBuf_iterCnt (s : State) (b : Buf) (bs : List Byte) :
    (s.writeBuf b bs).iterCnt = s.iterCnt := rfl
@[simp] theorem writeBuf_retryCnt (s : State) (b : Buf) (bs : List Byte) :
    (s.writeBuf b bs).retryCnt = s.retryCnt := rfl
@[simp] theorem writeBuf_A (s : State) (b : Buf) (bs : List Byte) : (s.writeBuf b bs).A = s.A := rfl
@[simp] theorem writeBuf_B (s : State) (b : Buf) (bs : List Byte) : (s.writeBuf b bs).B = s.B := rfl
@[simp] theorem writeBuf_X (s : State) (b : Buf) (bs : List Byte) : (s.writeBuf b bs).X = s.X := rfl
@[simp] theorem writeBuf_Y (s : State) (b : Buf) (bs : List Byte) : (s.writeBuf b bs).Y = s.Y := rfl
@[simp] theorem writeBuf_G (s : State) (b : Buf) (bs : List Byte) : (s.writeBuf b bs).G = s.G := rfl
@[simp] theorem writeBuf_P (s : State) (b : Buf) (bs : List Byte) : (s.writeBuf b bs).P = s.P := rfl
@[simp] theorem writeBuf_Q (s : State) (b : Buf) (bs : List Byte) : (s.writeBuf b bs).Q = s.Q := rfl
@[simp] theorem writeBuf_N (s : State) (b : Buf) (bs : List Byte) : (s.writeBuf b bs).N = s.N := rfl
@[simp] theorem writeBuf_PHI (s : State) (b : Buf) (bs : List Byte) :
    (s.writeBuf b bs).PHI = s.PHI := rfl
@[simp] theorem writeBuf_D (s : State) (b : Buf) (bs : List Byte) : (s.writeBuf b bs).D = s.D := rfl
@[simp] theorem writeBuf_mem (s : State) (b : Buf) (bs : List Byte) :
    (s.writeBuf b bs).mem = s.mem.writeBytes b.offset bs := rfl
@[simp] theorem writeBuf_rst (s : State) (b : Buf) (bs : List Byte) :
    (s.writeBuf b bs).rst = s.rst := rfl
@[simp] theorem writeBuf_host (s : State) (b : Buf) (bs : List Byte) :
    (s.writeBuf b bs).host = s.host := rfl
@[simp] theorem writeBuf_turns (s : State) (b : Buf) (bs : List Byte) :
    (s.writeBuf b bs).turns = s.turns := rfl
@[simp] theorem writeBuf_trace (s : State) (b : Buf) (bs : List Byte) :
    (s.writeBuf b bs).trace = s.trace := rfl
@[simp] theorem writeBuf_reqId (s : State) (b : Buf) (bs : List Byte) :
    (s.writeBuf b bs).reqId = s.reqId := rfl
@[simp] theorem writeBuf_draws (s : State) (b : Buf) (bs : List Byte) :
    (s.writeBuf b bs).draws = s.draws := rfl

@[simp] theorem writeBezout_cfg (s : State) (t : Bezout) : (s.writeBezout t).cfg = s.cfg := rfl
@[simp] theorem writeBezout_ctrl (s : State) (t : Bezout) : (s.writeBezout t).ctrl = s.ctrl := rfl
@[simp] theorem writeBezout_lastOp (s : State) (t : Bezout) :
    (s.writeBezout t).lastOp = s.lastOp := rfl
@[simp] theorem writeBezout_done (s : State) (t : Bezout) : (s.writeBezout t).done = s.done := rfl
@[simp] theorem writeBezout_err (s : State) (t : Bezout) : (s.writeBezout t).err = s.err := rfl
@[simp] theorem writeBezout_keyValid (s : State) (t : Bezout) :
    (s.writeBezout t).keyValid = s.keyValid := rfl
@[simp] theorem writeBezout_errCode (s : State) (t : Bezout) :
    (s.writeBezout t).errCode = s.errCode := rfl
@[simp] theorem writeBezout_subcause (s : State) (t : Bezout) :
    (s.writeBezout t).subcause = s.subcause := rfl
@[simp] theorem writeBezout_rej (s : State) (t : Bezout) : (s.writeBezout t).rej = s.rej := rfl
@[simp] theorem writeBezout_wign (s : State) (t : Bezout) : (s.writeBezout t).wign = s.wign := rfl
@[simp] theorem writeBezout_busErr (s : State) (t : Bezout) :
    (s.writeBezout t).busErr = s.busErr := rfl
@[simp] theorem writeBezout_doneIE (s : State) (t : Bezout) :
    (s.writeBezout t).doneIE = s.doneIE := rfl
@[simp] theorem writeBezout_errIE (s : State) (t : Bezout) :
    (s.writeBezout t).errIE = s.errIE := rfl
@[simp] theorem writeBezout_doneIP (s : State) (t : Bezout) :
    (s.writeBezout t).doneIP = s.doneIP := rfl
@[simp] theorem writeBezout_errIP (s : State) (t : Bezout) :
    (s.writeBezout t).errIP = s.errIP := rfl
@[simp] theorem writeBezout_msgLen (s : State) (t : Bezout) :
    (s.writeBezout t).msgLen = s.msgLen := rfl
@[simp] theorem writeBezout_blkLen (s : State) (t : Bezout) :
    (s.writeBezout t).blkLen = s.blkLen := rfl
@[simp] theorem writeBezout_errPos (s : State) (t : Bezout) :
    (s.writeBezout t).errPos = s.errPos := rfl
@[simp] theorem writeBezout_iterCnt (s : State) (t : Bezout) :
    (s.writeBezout t).iterCnt = BitVec.ofNat 32 t.n := rfl
@[simp] theorem writeBezout_retryCnt (s : State) (t : Bezout) :
    (s.writeBezout t).retryCnt = s.retryCnt := rfl
@[simp] theorem writeBezout_A (s : State) (t : Bezout) : (s.writeBezout t).A = s.A := rfl
@[simp] theorem writeBezout_B (s : State) (t : Bezout) : (s.writeBezout t).B = s.B := rfl
@[simp] theorem writeBezout_X (s : State) (t : Bezout) :
    (s.writeBezout t).X = s.reg (twos s.cfg.bw t.x) := rfl
@[simp] theorem writeBezout_Y (s : State) (t : Bezout) :
    (s.writeBezout t).Y = s.reg (twos s.cfg.bw t.y) := rfl
@[simp] theorem writeBezout_G (s : State) (t : Bezout) : (s.writeBezout t).G = s.reg t.g := rfl
@[simp] theorem writeBezout_P (s : State) (t : Bezout) : (s.writeBezout t).P = s.P := rfl
@[simp] theorem writeBezout_Q (s : State) (t : Bezout) : (s.writeBezout t).Q = s.Q := rfl
@[simp] theorem writeBezout_N (s : State) (t : Bezout) : (s.writeBezout t).N = s.N := rfl
@[simp] theorem writeBezout_PHI (s : State) (t : Bezout) : (s.writeBezout t).PHI = s.PHI := rfl
@[simp] theorem writeBezout_D (s : State) (t : Bezout) : (s.writeBezout t).D = s.D := rfl
@[simp] theorem writeBezout_mem (s : State) (t : Bezout) : (s.writeBezout t).mem = s.mem := rfl
@[simp] theorem writeBezout_rst (s : State) (t : Bezout) : (s.writeBezout t).rst = s.rst := rfl
@[simp] theorem writeBezout_host (s : State) (t : Bezout) : (s.writeBezout t).host = s.host := rfl
@[simp] theorem writeBezout_turns (s : State) (t : Bezout) :
    (s.writeBezout t).turns = s.turns := rfl
@[simp] theorem writeBezout_trace (s : State) (t : Bezout) :
    (s.writeBezout t).trace = s.trace := rfl
@[simp] theorem writeBezout_reqId (s : State) (t : Bezout) :
    (s.writeBezout t).reqId = s.reqId := rfl
@[simp] theorem writeBezout_draws (s : State) (t : Bezout) :
    (s.writeBezout t).draws = s.draws := rfl

@[simp] theorem softReset_cfg (s : State) : (s.softReset).cfg = s.cfg := rfl
@[simp] theorem softReset_ctrl (s : State) : (s.softReset).ctrl = .idle := rfl
@[simp] theorem softReset_lastOp (s : State) : (s.softReset).lastOp = 0 := rfl
@[simp] theorem softReset_done (s : State) : (s.softReset).done = false := rfl
@[simp] theorem softReset_err (s : State) : (s.softReset).err = false := rfl
@[simp] theorem softReset_keyValid (s : State) : (s.softReset).keyValid = false := rfl
@[simp] theorem softReset_errCode (s : State) : (s.softReset).errCode = 0 := rfl
@[simp] theorem softReset_subcause (s : State) : (s.softReset).subcause = 0 := rfl
@[simp] theorem softReset_rej (s : State) : (s.softReset).rej = false := rfl
@[simp] theorem softReset_wign (s : State) : (s.softReset).wign = false := rfl
@[simp] theorem softReset_busErr (s : State) : (s.softReset).busErr = false := rfl
@[simp] theorem softReset_doneIE (s : State) : (s.softReset).doneIE = false := rfl
@[simp] theorem softReset_errIE (s : State) : (s.softReset).errIE = false := rfl
@[simp] theorem softReset_doneIP (s : State) : (s.softReset).doneIP = false := rfl
@[simp] theorem softReset_errIP (s : State) : (s.softReset).errIP = false := rfl
@[simp] theorem softReset_msgLen (s : State) : (s.softReset).msgLen = 0 := rfl
@[simp] theorem softReset_blkLen (s : State) : (s.softReset).blkLen = 0 := rfl
@[simp] theorem softReset_errPos (s : State) : (s.softReset).errPos = 0 := rfl
@[simp] theorem softReset_iterCnt (s : State) : (s.softReset).iterCnt = 0 := rfl
@[simp] theorem softReset_retryCnt (s : State) : (s.softReset).retryCnt = 0 := rfl
@[simp] theorem softReset_A (s : State) : (s.softReset).A = List.replicate s.cfg.nw 0 := rfl
@[simp] theorem softReset_B (s : State) : (s.softReset).B = List.replicate s.cfg.nw 0 := rfl
@[simp] theorem softReset_X (s : State) : (s.softReset).X = List.replicate s.cfg.nw 0 := rfl
@[simp] theorem softReset_Y (s : State) : (s.softReset).Y = List.replicate s.cfg.nw 0 := rfl
@[simp] theorem softReset_G (s : State) : (s.softReset).G = List.replicate s.cfg.nw 0 := rfl
@[simp] theorem softReset_P (s : State) : (s.softReset).P = List.replicate s.cfg.nw 0 := rfl
@[simp] theorem softReset_Q (s : State) : (s.softReset).Q = List.replicate s.cfg.nw 0 := rfl
@[simp] theorem softReset_N (s : State) : (s.softReset).N = List.replicate s.cfg.nw 0 := rfl
@[simp] theorem softReset_PHI (s : State) : (s.softReset).PHI = List.replicate s.cfg.nw 0 := rfl
@[simp] theorem softReset_D (s : State) : (s.softReset).D = List.replicate s.cfg.nw 0 := rfl
@[simp] theorem softReset_mem (s : State) : (s.softReset).mem = s.abortedMem := rfl
@[simp] theorem softReset_rst (s : State) : (s.softReset).rst = s.rst := rfl
@[simp] theorem softReset_host (s : State) : (s.softReset).host = s.host := rfl
@[simp] theorem softReset_turns (s : State) : (s.softReset).turns = s.turns := rfl
@[simp] theorem softReset_trace (s : State) : (s.softReset).trace = s.trace := rfl
@[simp] theorem softReset_reqId (s : State) :
    (s.softReset).reqId = if s.request.isSome then s.reqId + 1 else s.reqId := rfl
@[simp] theorem softReset_draws (s : State) : (s.softReset).draws = s.draws := rfl

@[simp] theorem hardReset_cfg (s : State) : (s.hardReset).cfg = s.cfg := rfl
@[simp] theorem hardReset_ctrl (s : State) : (s.hardReset).ctrl = .idle := rfl
@[simp] theorem hardReset_lastOp (s : State) : (s.hardReset).lastOp = 0 := rfl
@[simp] theorem hardReset_done (s : State) : (s.hardReset).done = false := rfl
@[simp] theorem hardReset_err (s : State) : (s.hardReset).err = false := rfl
@[simp] theorem hardReset_keyValid (s : State) : (s.hardReset).keyValid = false := rfl
@[simp] theorem hardReset_errCode (s : State) : (s.hardReset).errCode = 0 := rfl
@[simp] theorem hardReset_subcause (s : State) : (s.hardReset).subcause = 0 := rfl
@[simp] theorem hardReset_rej (s : State) : (s.hardReset).rej = false := rfl
@[simp] theorem hardReset_wign (s : State) : (s.hardReset).wign = false := rfl
@[simp] theorem hardReset_busErr (s : State) : (s.hardReset).busErr = false := rfl
@[simp] theorem hardReset_doneIE (s : State) : (s.hardReset).doneIE = false := rfl
@[simp] theorem hardReset_errIE (s : State) : (s.hardReset).errIE = false := rfl
@[simp] theorem hardReset_doneIP (s : State) : (s.hardReset).doneIP = false := rfl
@[simp] theorem hardReset_errIP (s : State) : (s.hardReset).errIP = false := rfl
@[simp] theorem hardReset_msgLen (s : State) : (s.hardReset).msgLen = 0 := rfl
@[simp] theorem hardReset_blkLen (s : State) : (s.hardReset).blkLen = 0 := rfl
@[simp] theorem hardReset_errPos (s : State) : (s.hardReset).errPos = 0 := rfl
@[simp] theorem hardReset_iterCnt (s : State) : (s.hardReset).iterCnt = 0 := rfl
@[simp] theorem hardReset_retryCnt (s : State) : (s.hardReset).retryCnt = 0 := rfl
@[simp] theorem hardReset_A (s : State) : (s.hardReset).A = List.replicate s.cfg.nw 0 := rfl
@[simp] theorem hardReset_B (s : State) : (s.hardReset).B = List.replicate s.cfg.nw 0 := rfl
@[simp] theorem hardReset_X (s : State) : (s.hardReset).X = List.replicate s.cfg.nw 0 := rfl
@[simp] theorem hardReset_Y (s : State) : (s.hardReset).Y = List.replicate s.cfg.nw 0 := rfl
@[simp] theorem hardReset_G (s : State) : (s.hardReset).G = List.replicate s.cfg.nw 0 := rfl
@[simp] theorem hardReset_P (s : State) : (s.hardReset).P = List.replicate s.cfg.nw 0 := rfl
@[simp] theorem hardReset_Q (s : State) : (s.hardReset).Q = List.replicate s.cfg.nw 0 := rfl
@[simp] theorem hardReset_N (s : State) : (s.hardReset).N = List.replicate s.cfg.nw 0 := rfl
@[simp] theorem hardReset_PHI (s : State) : (s.hardReset).PHI = List.replicate s.cfg.nw 0 := rfl
@[simp] theorem hardReset_D (s : State) : (s.hardReset).D = List.replicate s.cfg.nw 0 := rfl
@[simp] theorem hardReset_mem (s : State) : (s.hardReset).mem = [] := rfl
@[simp] theorem hardReset_rst (s : State) : (s.hardReset).rst = s.rst := rfl
@[simp] theorem hardReset_host (s : State) : (s.hardReset).host = s.host := rfl
@[simp] theorem hardReset_turns (s : State) : (s.hardReset).turns = s.turns := rfl
@[simp] theorem hardReset_trace (s : State) : (s.hardReset).trace = s.trace := rfl
@[simp] theorem hardReset_reqId (s : State) :
    (s.hardReset).reqId = if s.request.isSome then s.reqId + 1 else s.reqId := rfl
@[simp] theorem hardReset_draws (s : State) : (s.hardReset).draws = s.draws := rfl

/-- Reading a register after writing it. -/
theorem getBig_setBig (s : State) (r r' : BigName) (v : BigReg) :
    (s.setBig r v).getBig r' = if r' = r ∧ r ≠ .E then v else s.getBig r' := by
  cases r <;> cases r' <;> rfl

@[simp] theorem setBig_cfg (s : State) (r : BigName) (v : BigReg) : (s.setBig r v).cfg = s.cfg := by
  cases r <;> rfl

@[simp] theorem setBig_ctrl (s : State) (r : BigName) (v : BigReg) : (s.setBig r v).ctrl = s.ctrl := by
  cases r <;> rfl

@[simp] theorem setBig_mem (s : State) (r : BigName) (v : BigReg) : (s.setBig r v).mem = s.mem := by
  cases r <;> rfl

/-- The block is busy exactly when the controller is not idle (spec/10_state.md R26). -/
theorem busy_eq_false_iff (s : State) : s.busy = false ↔ s.ctrl = .idle := by
  unfold State.busy; cases s.ctrl <;> simp

theorem busy_eq_true_iff (s : State) : s.busy = true ↔ s.ctrl ≠ .idle := by
  unfold State.busy; cases s.ctrl <;> simp

theorem busy_of_idle {s : State} (h : s.ctrl = .idle) : s.busy = false := (busy_eq_false_iff s).mpr h

/-- A controller state belongs to a command exactly when it is not IDLE. -/
theorem command_eq_none_iff (c : Ctrl) : c.command = none ↔ c = .idle := by
  cases c <;> simp [Ctrl.command] <;> split <;> simp

end Sys2Proof.Machine
end

