-- ==== Sys2Proof/Laws/Controller.lean ====
section
/-!
SUPPORT. What a controller step and an answer of an external agent can do, and what they leave
unchanged (spec/10_state.md R50, R53; spec/30_encoding.md Table T30.3).
-/

namespace Sys2Proof.Machine

/-- What neither a controller step nor an answer changes. -/
structure KeepsHostSide (s t : State) : Prop where
  cfg : t.cfg = s.cfg
  lastOp : t.lastOp = s.lastOp
  rej : t.rej = s.rej
  wign : t.wign = s.wign
  busErr : t.busErr = s.busErr
  doneIE : t.doneIE = s.doneIE
  errIE : t.errIE = s.errIE
  A : t.A = s.A
  B : t.B = s.B
  rst : t.rst = s.rst
  host : t.host = s.host
  turns : t.turns = s.turns
  trace : t.trace = s.trace
  draws : t.draws = s.draws

theorem KeepsHostSide.refl (s : State) : KeepsHostSide s s := by constructor <;> rfl

theorem keepsHostSide_raiseErr (c : ErrCause) (pos : Nat) (s : State) :
    KeepsHostSide s (raiseErr c pos s) := by constructor <;> rfl

/-- A controller step that answers a next state keeps the host's side and the request number. -/
theorem controllerStep_keeps {s t : State} (h : controllerStep s = .next t) :
    KeepsHostSide s t ∧ t.reqId = s.reqId := by
  unfold controllerStep at h
  split at h
  case h_2 =>
    cases h; unfold egcdRun; dsimp only; split <;> exact ⟨by constructor <;> rfl, rfl⟩
  case h_7 =>
    cases h; unfold derivCheck; dsimp only
    split
    · exact ⟨keepsHostSide_raiseErr _ _ _, rfl⟩
    · split
      · exact ⟨keepsHostSide_raiseErr _ _ _, rfl⟩
      · split <;> exact ⟨by constructor <;> rfl, rfl⟩
  case h_10 =>
    cases h; unfold keyCheck
    split
    · exact ⟨by constructor <;> rfl, rfl⟩
    · split
      · exact ⟨keepsHostSide_raiseErr _ _ _, rfl⟩
      · split <;> exact ⟨by constructor <;> rfl, rfl⟩
  case h_11 => cases h; unfold keyNorm; split <;> exact ⟨by constructor <;> rfl, rfl⟩
  case h_13 => cases h; unfold encodeCheck; split <;> exact ⟨by constructor <;> rfl, rfl⟩
  case h_14 =>
    split at h
    · cases h; exact ⟨KeepsHostSide.refl s, rfl⟩
    · unfold encodeFinish at h
      split at h <;> cases h
      exact ⟨by constructor <;> rfl, rfl⟩
  case h_15 =>
    unfold decodeRun at h
    dsimp only at h
    split at h
    · cases h; exact ⟨keepsHostSide_raiseErr _ _ _, rfl⟩
    · split at h
      · cases h
      · cases h; exact ⟨keepsHostSide_raiseErr _ _ _, rfl⟩
      · split at h <;> cases h <;> exact ⟨by constructor <;> rfl, rfl⟩
  all_goals cases h; exact ⟨by constructor <;> rfl, rfl⟩

/-- Taking a drawn word keeps the host's side. -/
theorem takeWord_keeps (w : Word) (s : State) :
    KeepsHostSide s (takeWord w s) ∧ (takeWord w s).reqId = s.reqId := by
  unfold takeWord
  split
  · unfold drawP; dsimp only; split <;> exact ⟨by constructor <;> rfl, rfl⟩
  · unfold drawQ; dsimp only; split <;> exact ⟨by constructor <;> rfl, rfl⟩
  · exact ⟨by constructor <;> rfl, rfl⟩
  · exact ⟨KeepsHostSide.refl s, rfl⟩

/-- Taking a prime answer keeps the host's side. -/
theorem takePrime_keeps (e : Bool) (r : Nat) (s : State) :
    KeepsHostSide s (takePrime e r s) ∧ (takePrime e r s).reqId = s.reqId := by
  unfold takePrime
  split
  · unfold primeP; split <;> exact ⟨by constructor <;> rfl, rfl⟩
  · unfold primeQ; split <;> exact ⟨by constructor <;> rfl, rfl⟩
  · exact ⟨KeepsHostSide.refl s, rfl⟩

/-- An answer is taken, for the next request number, or discarded. -/
theorem answer_cases (tag : Nat) (prime : Bool) (take : State → State) (s : State) :
    answer tag prime take s = s ∨
    (s.request.isSome = true ∧ s.rst = false ∧
      answer tag prime take s = take { s with reqId := s.reqId + 1 }) := by
  unfold answer
  split
  · rename_i r hr
    split
    · rename_i hc; exact .inr ⟨by simp [hr], hc.2.2, rfl⟩
    · exact .inl rfl
  · exact .inl rfl

/-- An answer to another request is discarded. -/
theorem answer_of_tag_ne {tag : Nat} {s : State} (h : tag ≠ s.reqId) (prime : Bool)
    (take : State → State) : answer tag prime take s = s := by
  unfold answer; split <;> simp [h]

/-- The controller's turn waits under reset and steps otherwise. -/
theorem controllerTurn_cases {s t : State} (h : controllerTurn s = .next t) :
    t = s ∨ (s.rst = false ∧ controllerStep s = .next t) := by
  unfold controllerTurn at h
  split at h
  · cases h; exact .inl rfl
  · exact .inr ⟨by simp_all, h⟩

theorem controllerTurn_keeps {s t : State} (h : controllerTurn s = .next t) :
    KeepsHostSide s t ∧ t.reqId = s.reqId := by
  rcases controllerTurn_cases h with rfl | ⟨_, h⟩
  · exact ⟨KeepsHostSide.refl _, rfl⟩
  · exact controllerStep_keeps h

theorem andThen_next {r : Result} {f : State → Result} {t : State} (h : andThen r f = .next t) :
    ∃ u, r = .next u ∧ f u = .next t := by
  cases r with
  | next u => exact ⟨u, rfl, h⟩
  | fault e => cases h
  | refused e => cases h

end Sys2Proof.Machine
end

