-- ==== Sys2Proof/Laws/Egcd.lean ====
section
/-!
SUPPORT. The function EGCD satisfies the two equations of spec/40_egcd.md R130, and what follows from
them by unfolding (R131, R136).
-/

namespace Sys2Proof.Machine

/-- Any fuel that covers the second argument gives the same result. -/
theorem egcdFuel_eq_egcd {fuel a b : Nat} (h : b ≤ fuel) : egcdFuel fuel a b = egcd a b := by
  have key : ∀ (f1 f2 a b : Nat), b ≤ f1 → b ≤ f2 → egcdFuel f1 a b = egcdFuel f2 a b := by
    intro f1
    induction f1 with
    | zero =>
      intro f2 a b h1 _
      obtain rfl : b = 0 := by omega
      cases f2 <;> simp [egcdFuel]
    | succ f1 ih =>
      intro f2 a b h1 h2
      cases f2 with
      | zero => obtain rfl : b = 0 := by omega
                simp [egcdFuel]
      | succ f2 =>
        by_cases hb : b = 0
        · simp [egcdFuel, hb]
        · have := Nat.mod_lt a (Nat.pos_of_ne_zero hb)
          simp only [egcdFuel, hb, if_false, ih f2 b (a % b) (by omega) (by omega)]
  exact key fuel b a b h (Nat.le_refl b)

/-- The base case of R130. -/
theorem egcd_zero (a : Nat) : egcd a 0 = { x := 1, y := 0, g := a, n := 0 } := rfl

/-- The recursive case of R130. -/
theorem egcd_step (a : Nat) {b : Nat} (h : b ≠ 0) :
    egcd a b =
      { x := (egcd b (a % b)).y
        y := (egcd b (a % b)).x - (a / b : Nat) * (egcd b (a % b)).y
        g := (egcd b (a % b)).g
        n := (egcd b (a % b)).n + 1 } := by
  obtain ⟨k, rfl⟩ := Nat.exists_eq_succ_of_ne_zero h
  have hlt := Nat.mod_lt a (Nat.succ_pos k)
  rw [egcd, egcdFuel, if_neg h, egcdFuel_eq_egcd (by omega)]

/-- Induction along the recursion of R130. -/
theorem egcd_induction {motive : Nat → Nat → Prop} (zero : ∀ a, motive a 0)
    (step : ∀ a b, b ≠ 0 → motive b (a % b) → motive a b) (a b : Nat) : motive a b := by
  induction b using Nat.strong_induction_on generalizing a with
  | _ b ih =>
    by_cases hb : b = 0
    · exact hb ▸ zero a
    · exact step a b hb (ih _ (Nat.mod_lt a (Nat.pos_of_ne_zero hb)) b)

end Sys2Proof.Machine
end

