-- ==== Sys2Proof/Laws/Issue.lean ====
section
/-!
SUPPORT. What issuing a command can do (spec/30_encoding.md R101): `exec` always answers a next state,
and it is one of four.
-/

namespace Sys2Proof.Machine

theorem issue_busy {run : State → Result} {s : State} (h : s.busy = true) :
    issue run s = .next { s with rej := true } := by simp [issue, h]

theorem issue_idle {run : State → Result} {s : State} (h : s.busy = false) :
    issue run s = run s := by simp [issue, h]

/-- The controller state in which an accepted command starts (spec/10_state.md Table T10.4). -/
def firstState : Instr → Option Ctrl
  | .egcd => some .egRun
  | .keygen => some (.kgDrawP 0 [])
  | .derive => some .dvCheck
  | .encode => some (.enRun none)
  | .decode => some .deRun
  | .nop | .sreset => none
  | .reserved6 | .reserved7 | .reserved8 | .reserved9 | .reservedA
  | .reservedB | .reservedC | .reservedD | .reservedE => none

/-- The state in which an accepted command has started. -/
def startedState (i : Instr) (c : Ctrl) (s : State) : State :=
  match i with
  | .keygen | .derive => { (s.accept i).startKey with ctrl := c }
  | _ => { s.accept i with ctrl := c }

/-- Everything that the issue of a command can do. -/
theorem exec_cases (i : Instr) (s : State) :
    (i = .sreset ∧ exec i s = .next s.softReset) ∨
    (i ≠ .sreset ∧ s.busy = true ∧ exec i s = .next { s with rej := true }) ∨
    (i = .nop ∧ s.busy = false ∧ exec i s = .next s) ∨
    (i.reserved = true ∧ s.busy = false ∧ exec i s = .next (raiseErr .illegalCmd 0 (s.accept i))) ∨
    (∃ c, firstState i = some c ∧ s.busy = false ∧ exec i s = .next (startedState i c s)) := by
  cases hb : s.busy <;> cases i <;>
    simp [exec, execNop, execEgcd, execKeygen, execDerive, execEncode, execDecode, execSreset,
      execReserved6, execReserved7, execReserved8, execReserved9, execReservedA, execReservedB,
      execReservedC, execReservedD, execReservedE, issueRun, issueReserved, issue, hb, firstState,
      startedState, Instr.reserved]

/-- `exec` never faults and never refuses. -/
theorem exec_next (i : Instr) (s : State) : ∃ t, exec i s = .next t := by
  rcases exec_cases i s with ⟨_, h⟩ | ⟨_, _, h⟩ | ⟨_, _, h⟩ | ⟨_, _, h⟩ | ⟨_, _, _, h⟩ <;> exact ⟨_, h⟩

end Sys2Proof.Machine
end

