-- ==== Sys2Proof/Laws/Memory.lean ====
section
/-!
SUPPORT. The laws of the buffer memory: reading after writing and erasing, and the canonical form.
-/

namespace Sys2Proof.Machine

theorem Memory.read_nil (a : Nat) : Memory.read [] a = none := rfl

theorem Memory.read_write_same (m : Memory) (a : Nat) (b : Byte) : (m.write a b).read a = some b := by
  induction m with
  | nil => simp [Memory.write, Memory.read]
  | cons c m ih =>
    simp only [Memory.write]
    split
    · simp [Memory.read]
    · split
      · simp [Memory.read]
      · rename_i h; simp [Memory.read, Ne.symm h, ih]

theorem Memory.read_write_other (m : Memory) {a a' : Nat} (b : Byte) (h : a' ≠ a) :
    (m.write a b).read a' = m.read a' := by
  induction m with
  | nil => simp [Memory.write, Memory.read, Ne.symm h]
  | cons c m ih =>
    simp only [Memory.write]
    split
    · simp [Memory.read, Ne.symm h]
    · split
      · rename_i hc; simp [Memory.read, hc ▸ Ne.symm h, Ne.symm h]
      · simp [Memory.read, ih]

theorem Memory.read_write (m : Memory) (a a' : Nat) (b : Byte) :
    (m.write a b).read a' = if a' = a then some b else m.read a' := by
  split
  · rename_i h; rw [h, Memory.read_write_same]
  · exact Memory.read_write_other m b ‹_›

theorem Memory.mem_write {m : Memory} {a : Nat} {b : Byte} {c : Host.Cell} (h : c ∈ m.write a b) :
    c = (a, b) ∨ c ∈ m := by
  induction m with
  | nil => simpa [Memory.write] using h
  | cons d m ih =>
    simp only [Memory.write] at h
    split at h
    · simpa using h
    · split at h
      · simp only [List.mem_cons] at h ⊢; tauto
      · simp only [List.mem_cons] at h ⊢
        rcases h with h | h
        · exact .inr (.inl h)
        · rcases ih h with h | h
          · exact .inl h
          · exact .inr (.inr h)

theorem Memory.wf_write {m : Memory} (a : Nat) (b : Byte) (h : m.wf) : (m.write a b).wf := by
  induction m with
  | nil => simp [Memory.write, Memory.wf]
  | cons c m ih =>
    have hc := List.pairwise_cons.mp h
    simp only [Memory.write]
    split
    · refine List.pairwise_cons.mpr ⟨fun d hd => ?_, h⟩
      rcases List.mem_cons.mp hd with rfl | hd
      · assumption
      · have := hc.1 d hd; simp only; omega
    · split
      · rename_i hca
        exact List.pairwise_cons.mpr ⟨fun d hd => by have := hc.1 d hd; simp only; omega, hc.2⟩
      · refine List.pairwise_cons.mpr ⟨fun d hd => ?_, ih hc.2⟩
        rcases Memory.mem_write hd with rfl | hd
        · simp only; omega
        · exact hc.1 d hd

theorem Memory.wf_writeBytes {m : Memory} (bs : List Byte) (a : Nat) (h : m.wf) :
    (m.writeBytes a bs).wf := by
  induction bs generalizing a with
  | nil => exact h
  | cons b bs ih => exact Memory.wf_write a b (ih (a + 1))

theorem Memory.mem_writeBytes {m : Memory} {a : Nat} {bs : List Byte} {c : Host.Cell}
    (h : c ∈ m.writeBytes a bs) : (a ≤ c.1 ∧ c.1 < a + bs.length) ∨ c ∈ m := by
  induction bs generalizing a with
  | nil => exact .inr h
  | cons b bs ih =>
    rcases Memory.mem_write h with rfl | h
    · exact .inl ⟨Nat.le_refl _, by simp⟩
    · rcases ih h with ⟨h1, h2⟩ | h
      · left; simp only [List.length_cons]; omega
      · exact .inr h

/-- Reading after writing consecutive bytes: the written byte inside, as before outside. -/
theorem Memory.read_writeBytes (m : Memory) (a a' : Nat) (bs : List Byte) :
    (m.writeBytes a bs).read a' =
      if a ≤ a' ∧ a' < a + bs.length then bs[a' - a]? else m.read a' := by
  induction bs generalizing a with
  | nil => rw [if_neg (by simp only [List.length_nil]; omega)]; rfl
  | cons b bs ih =>
    rw [Memory.writeBytes, Memory.read_write, ih]
    simp only [List.length_cons]
    by_cases h : a' = a
    · subst h; simp
    · rw [if_neg h]
      by_cases h2 : a + 1 ≤ a' ∧ a' < a + 1 + bs.length
      · rw [if_pos h2, if_pos (by omega)]
        obtain ⟨k, rfl⟩ : ∃ k, a' = a + 1 + k := ⟨a' - (a + 1), by omega⟩
        rw [show a + 1 + k - (a + 1) = k by omega, show a + 1 + k - a = k + 1 by omega,
          List.getElem?_cons_succ]
      · rw [if_neg h2, if_neg (by omega)]

theorem Memory.wf_erase {m : Memory} (a n : Nat) (h : m.wf) : (m.erase a n).wf :=
  List.Pairwise.filter _ h

theorem Memory.mem_of_mem_erase {m : Memory} {a n : Nat} {c : Host.Cell} (h : c ∈ m.erase a n) :
    c ∈ m := (List.mem_filter.mp h).1

theorem Memory.read_erase (m : Memory) (a n a' : Nat) :
    (m.erase a n).read a' = if a ≤ a' ∧ a' < a + n then none else m.read a' := by
  induction m with
  | nil => simp [Memory.erase, Memory.read, Memory.unlisted]
  | cons c m ih =>
    simp only [Memory.erase, List.filter_cons] at ih ⊢
    by_cases hc : a ≤ c.1 ∧ c.1 < a + n
    · rw [if_neg (by simp [hc]), ih]
      split
      · rfl
      · rw [Memory.read, if_neg (by rintro rfl; contradiction)]
    · rw [if_pos (by simp only [Bool.not_eq_true', Bool.and_eq_false_iff, decide_eq_false_iff_not]; omega),
        Memory.read, Memory.read, ih]
      by_cases h : c.1 = a'
      · subst h; simp [hc]
      · simp [h]

theorem Memory.length_readBytes (m : Memory) (a n : Nat) : (m.readBytes a n).length = n := by
  induction n generalizing a with
  | zero => rfl
  | succ n ih => simp [Memory.readBytes, ih]

theorem Memory.getElem?_readBytes (m : Memory) (a n i : Nat) :
    (m.readBytes a n)[i]? = if i < n then some (m.read (a + i)) else none := by
  induction n generalizing a i with
  | zero => simp [Memory.readBytes]
  | succ n ih =>
    cases i with
    | zero => simp [Memory.readBytes]
    | succ i =>
      rw [Memory.readBytes, List.getElem?_cons_succ, ih, show a + 1 + i = a + (i + 1) by omega]
      simp

/-- Consecutive bytes read back as they were written. -/
theorem Memory.readBytes_writeBytes (m : Memory) (a : Nat) (bs : List Byte) :
    (m.writeBytes a bs).readBytes a bs.length = bs.map some := by
  apply List.ext_getElem?
  intro i
  rw [Memory.getElem?_readBytes, Memory.read_writeBytes, List.getElem?_map]
  by_cases h : i < bs.length
  · rw [if_pos h, if_pos (by omega), Nat.add_sub_cancel_left, List.getElem?_eq_getElem h]; rfl
  · rw [if_neg h, List.getElem?_eq_none (by omega)]; rfl

/-- Two memories in canonical form that read alike are equal. -/
theorem Memory.ext_of_read {m m' : Memory} (h : m.wf) (h' : m'.wf)
    (hr : ∀ a, m.read a = m'.read a) : m = m' := by
  have fresh : ∀ {m : Memory} {a : Nat}, (∀ d ∈ m, a < d.1) → m.read a = none := by
    intro m a hm
    induction m with
    | nil => rfl
    | cons c m ih =>
      have := hm c (by simp)
      rw [Memory.read, if_neg (by omega), ih fun d hd => hm d (by simp [hd])]
  induction m generalizing m' with
  | nil =>
    cases m' with
    | nil => rfl
    | cons c m' => have := hr c.1; simp [Memory.read, Memory.unlisted] at this
  | cons c m ih =>
    have hc := List.pairwise_cons.mp h
    cases m' with
    | nil => have := hr c.1; simp [Memory.read, Memory.unlisted] at this
    | cons d m' =>
      have hd := List.pairwise_cons.mp h'
      have hcd : c.1 = d.1 := by
        rcases Nat.lt_trichotomy c.1 d.1 with hlt | heq | hgt
        · have h1 := hr c.1
          have h2 : Memory.read (d :: m') c.1 = none := fresh fun e he => by
            rcases List.mem_cons.mp he with rfl | he
            · exact hlt
            · have := hd.1 e he; omega
          rw [h2] at h1; simp [Memory.read] at h1
        · exact heq
        · have h1 := hr d.1
          have h2 : Memory.read (c :: m) d.1 = none := fresh fun e he => by
            rcases List.mem_cons.mp he with rfl | he
            · exact hgt
            · have := hc.1 e he; omega
          rw [h2] at h1; simp [Memory.read] at h1
      have hv : c.2 = d.2 := by have h1 := hr c.1; simpa [Memory.read, hcd] using h1
      have htail : m = m' := ih hc.2 hd.2 fun a => by
        have h1 := hr a
        by_cases ha : c.1 = a
        · rw [fresh (fun e he => ha ▸ hc.1 e he), fresh (fun e he => ha ▸ hcd ▸ hd.1 e he)]
        · simpa [Memory.read, ha, hcd ▸ ha] using h1
      rw [htail, Prod.ext hcd hv]

end Sys2Proof.Machine
end

