-- ==== Sys2Proof/Laws/Host.lean ====
section
/-!
SUPPORT. What the host's turn can do (spec/20_memory.md R74-R79): a quiet move, or a write to one
location, which in turn is a flag change, an operand write of an idle block, or a command.
-/

namespace Sys2Proof.Machine

/-- Only the host's side, the response, BUSERR and the counter of free values differ. -/
def Quiet (s t : State) : Prop :=
  t = { s with host := t.host, trace := t.trace, draws := t.draws, busErr := t.busErr }

theorem Quiet.refl (s : State) : Quiet s s := rfl

theorem Quiet.trans {s t u : State} (h : Quiet s t) (h' : Quiet t u) : Quiet s u := by
  unfold Quiet at *; rw [h', h]

theorem quiet_okay (s : State) (v : Option Word) : Quiet s (s.okay v) := rfl

theorem quiet_busError (s : State) (v : Option Word) : Quiet s (s.busError v) := rfl

theorem quiet_afterRead (s : State) (l : Loc) : Quiet s (s.afterRead l) := by
  unfold State.afterRead; split <;> rfl

theorem quiet_host (s : State) (h : List HostOp) : Quiet s { s with host := h } := rfl

/-- The outcomes of an access inside the window. -/
theorem accessAt_cases {a : Access} {off : Nat} {s t : State} (h : accessAt a off s = .next t) :
    Quiet s t ∨
    ∃ ad l v, a = .write ad 32 0xF#4 v ∧ off % 4 = 0 ∧ locate s.cfg off = some l ∧
      writeHost l v (s.okay none) = .next t := by
  cases a with
  | read ad size =>
    simp only [accessAt] at h
    split at h <;> cases h
    · exact .inl ((quiet_afterRead s _).trans (quiet_okay _ _))
    · exact .inl (quiet_busError _ _)
  | write ad size strobes v =>
    simp only [accessAt] at h
    split at h
    · rename_i l hl
      unfold accessLoc at hl
      split at hl
      · rename_i hc
        obtain ⟨h4, rfl, rfl⟩ := hc
        exact .inr ⟨ad, l, v, rfl, h4, hl, h⟩
      · cases hl
    · cases h; exact .inl (quiet_busError _ _)

/-- The outcomes of a bus access. -/
theorem busAccess_cases {a : Access} {s t : State} (h : busAccess a s = .next t) :
    s.rst = false ∧ (Quiet s t ∨
      ∃ ad l v, a = .write ad 32 0xF#4 v ∧ s.cfg.base ≤ ad ∧ ad < s.cfg.base + 0x4000 ∧
        (ad - s.cfg.base) % 4 = 0 ∧ locate s.cfg (ad - s.cfg.base) = some l ∧
        writeHost l v (s.okay none) = .next t) := by
  unfold busAccess at h
  split at h
  · cases h
  · rename_i hr
    refine ⟨by simpa using hr, ?_⟩
    split at h
    · rename_i hin
      rcases accessAt_cases h with h | ⟨ad, l, v, rfl, h4, hl, hw⟩
      · exact .inl h
      · exact .inr ⟨ad, l, v, rfl, hin.1, hin.2, h4, hl, hw⟩
    · cases h

theorem busAccess_read_quiet {a size : Nat} {s t : State} (h : busAccess (.read a size) s = .next t) :
    Quiet s t := by
  rcases (busAccess_cases h).2 with h | ⟨_, _, _, h, _⟩
  · exact h
  · cases h

/-- The outcomes of the host's turn: a quiet move, or a legal write to one location after a quiet move. -/
theorem hostTurn_cases {s t : State} (h : hostTurn s = .next t) :
    Quiet s t ∨
    ∃ ad l v rest s0, s.host = .access (.write ad 32 0xF#4 v) :: rest ∧ s.rst = false ∧
      s.cfg.base ≤ ad ∧ ad < s.cfg.base + 0x4000 ∧ (ad - s.cfg.base) % 4 = 0 ∧
      locate s.cfg (ad - s.cfg.base) = some l ∧ Quiet s s0 ∧ s0.busErr = s.busErr ∧
      writeHost l v s0 = .next t := by
  unfold hostTurn at h
  split at h
  · cases h; exact .inl (Quiet.refl s)
  · rename_i a rest hh
    obtain ⟨hr, h | ⟨ad, l, v, rfl, hb, hw, h4, hl, hx⟩⟩ := busAccess_cases h
    · exact .inl ((quiet_host s rest).trans h)
    · exact .inr ⟨ad, l, v, rest, _, hh, hr, hb, hw, h4, hl,
        (quiet_host s rest).trans (quiet_okay _ none), rfl, hx⟩
  · rename_i rest hh
    unfold pollOnce at h
    split at h
    · exact .inl (busAccess_read_quiet h)
    · exact .inl ((quiet_host s rest).trans (busAccess_read_quiet h))
  · rename_i rest hh
    cases h
    split
    · exact .inl (quiet_host s rest)
    · exact .inl (Quiet.refl s)

/-- A host write always answers a next state. -/
theorem writeHost_next (l : Loc) (v : Word) (s : State) : ∃ t, writeHost l v s = .next t := by
  cases l with
  | cmd => exact exec_next (decode v) s
  | _ => exact ⟨_, rfl⟩

/-- The host is refused only at its next operation: an access outside the window, or any access or POLL
while the reset input is asserted. -/
theorem hostTurn_refused {s : State} {e : Refusal} (h : hostTurn s = .refused e) :
    (e = .outsideWindow ∧ ∃ a rest, s.host = .access a :: rest ∧
      (a.addr < s.cfg.base ∨ s.cfg.base + 0x4000 ≤ a.addr)) ∨
    (e = .accessInReset ∧ s.rst = true ∧ ∃ op rest, s.host = op :: rest ∧ op ≠ .waitIrq) := by
  have noRefusal : ∀ (a : Access) (off : Nat) (u : State), accessAt a off u ≠ .refused e := by
    intro a off u h
    cases a <;> simp only [accessAt] at h <;> split at h <;> try cases h
    obtain ⟨t, ht⟩ := writeHost_next ‹_› ‹_› (u.okay none)
    rw [ht] at h; cases h
  have bus : ∀ (a : Access) (u : State), busAccess a u = .refused e →
      (e = .accessInReset ∧ u.rst = true) ∨
      (e = .outsideWindow ∧ (a.addr < u.cfg.base ∨ u.cfg.base + 0x4000 ≤ a.addr)) := by
    intro a u h
    unfold busAccess at h
    split at h
    · cases h; exact .inl ⟨rfl, ‹_›⟩
    · split at h
      · exact absurd h (noRefusal _ _ _)
      · cases h; right; refine ⟨rfl, ?_⟩; simp only [windowSize] at *; omega
  unfold hostTurn at h
  split at h
  · cases h
  · rename_i a rest hh
    rcases bus _ _ h with ⟨rfl, hr⟩ | ⟨rfl, ho⟩
    · exact .inr ⟨rfl, hr, _, rest, hh, by simp⟩
    · exact .inl ⟨rfl, a, rest, hh, ho⟩
  · rename_i rest hh
    unfold pollOnce at h
    rcases bus _ _ h with ⟨rfl, hr⟩ | ⟨_, ho⟩
    · exact .inr ⟨rfl, by split at hr <;> exact hr, _, rest, hh, by simp⟩
    · split at ho <;> simp only [Access.addr, Loc.offset] at ho <;> omega
  · cases h

/-- A lane write changes only the memory, which keeps its form and gains only bytes of the buffer. -/
theorem writeLane_spec (s : State) (b : Buf) (j lane : Nat) (v : Word) :
    ∃ m, s.writeLane b j lane v = { s with mem := m } ∧ (s.mem.wf → m.wf) ∧
      ∀ c ∈ m, c ∈ s.mem ∨ ∃ i, i < b.size s.cfg ∧ c.1 = b.offset + i := by
  simp only [State.writeLane]
  split
  · rename_i hlt
    refine ⟨_, rfl, Memory.wf_write _ _, fun c hc => ?_⟩
    rcases Memory.mem_write hc with rfl | hc
    · exact .inr ⟨_, hlt, rfl⟩
    · exact .inl hc
  · exact ⟨s.mem, rfl, id, fun c hc => .inl hc⟩

theorem writeBufWord_spec (s : State) (b : Buf) (j : Nat) (v : Word) :
    ∃ m, s.writeBufWord b j v = { s with mem := m } ∧ (s.mem.wf → m.wf) ∧
      ∀ c ∈ m, c ∈ s.mem ∨ ∃ i, i < b.size s.cfg ∧ c.1 = b.offset + i := by
  obtain ⟨m0, e0, w0, i0⟩ := writeLane_spec s b j 0 v
  obtain ⟨m1, e1, w1, i1⟩ := writeLane_spec { s with mem := m0 } b j 1 v
  obtain ⟨m2, e2, w2, i2⟩ := writeLane_spec { s with mem := m1 } b j 2 v
  obtain ⟨m3, e3, w3, i3⟩ := writeLane_spec { s with mem := m2 } b j 3 v
  refine ⟨m3, ?_, fun h => w3 (w2 (w1 (w0 h))), fun c hc => ?_⟩
  · rw [State.writeBufWord, e0, e1, e2, e3]
  · rcases i3 c hc with h | h
    · rcases i2 c h with h | h
      · rcases i1 c h with h | h
        · exact i0 c h
        · exact .inr h
      · exact .inr h
    · exact .inr h

/-- Everything that a host write to a location other than CMD can do. -/
theorem writeLoc_cases (s : State) (l : Loc) (v : Word) :
    (s.writeLoc l v = { s with
      rej := (s.writeLoc l v).rej, wign := (s.writeLoc l v).wign, busErr := (s.writeLoc l v).busErr
      doneIE := (s.writeLoc l v).doneIE, errIE := (s.writeLoc l v).errIE
      doneIP := (s.writeLoc l v).doneIP, errIP := (s.writeLoc l v).errIP }) ∨
    (s.busy = false ∧
      ((s.writeLoc l v = { s with msgLen := v.setWidth 16 }) ∨
       (s.writeLoc l v = { s with blkLen := v.setWidth 16 }) ∨
       (∃ r i, l = .big r i ∧ r.hostWritable = true ∧
         s.writeLoc l v = s.setBig r ((s.getBig r).set i v)) ∨
       (∃ b j, l = .buf b j ∧ s.writeLoc l v = s.writeBufWord b j v))) := by
  cases l with
  | big r i =>
    simp only [State.writeLoc]
    split
    · rename_i hw
      unfold State.writeOperand
      split
      · exact .inl rfl
      · rename_i hb
        exact .inr ⟨by simpa using hb, .inr (.inr (.inl ⟨r, i, rfl, hw, rfl⟩))⟩
    · exact .inl rfl
  | buf b j =>
    simp only [State.writeLoc, State.writeOperand]
    split
    · exact .inl rfl
    · rename_i hb
      exact .inr ⟨by simpa using hb, .inr (.inr (.inr ⟨b, j, rfl, rfl⟩))⟩
  | msgLen =>
    simp only [State.writeLoc, State.writeOperand]
    split
    · exact .inl rfl
    · rename_i hb; exact .inr ⟨by simpa using hb, .inl rfl⟩
  | blkLen =>
    simp only [State.writeLoc, State.writeOperand]
    split
    · exact .inl rfl
    · rename_i hb; exact .inr ⟨by simpa using hb, .inr (.inl rfl)⟩
  | _ => exact .inl rfl

/-- A host write to a location is a command, or the write of that location. -/
theorem writeHost_cases {l : Loc} {v : Word} {s t : State} (h : writeHost l v s = .next t) :
    (l = .cmd ∧ exec (decode v) s = .next t) ∨ (l ≠ .cmd ∧ t = s.writeLoc l v) := by
  cases l with
  | cmd => exact .inl ⟨rfl, h⟩
  | _ => cases h; exact .inr ⟨by simp, rfl⟩

end Sys2Proof.Machine
end

