-- ==== Sys2Proof/Laws/PerInstr.lean ====
section
/-!
SUPPORT. For each command: its word is its OP value and nothing else, so it is well formed
(spec/30_encoding.md R100, Table T30.2).
-/

namespace Sys2Proof.Laws

/-- The word of the command carries its OP value in [3:0] and 0 in [31:4]. -/
def OpField.Statement (i : Instr) : Prop :=
  (encode i).extractLsb' 0 4 = i.op ∧ (encode i).extractLsb' 4 28 = 0#28

theorem OpField.nop : OpField.Statement .nop := by constructor <;> decide
theorem OpField.egcd : OpField.Statement .egcd := by constructor <;> decide
theorem OpField.keygen : OpField.Statement .keygen := by constructor <;> decide
theorem OpField.derive : OpField.Statement .derive := by constructor <;> decide
theorem OpField.encode : OpField.Statement .encode := by constructor <;> decide
theorem OpField.decode : OpField.Statement .decode := by constructor <;> decide
theorem OpField.reserved6 : OpField.Statement .reserved6 := by constructor <;> decide
theorem OpField.reserved7 : OpField.Statement .reserved7 := by constructor <;> decide
theorem OpField.reserved8 : OpField.Statement .reserved8 := by constructor <;> decide
theorem OpField.reserved9 : OpField.Statement .reserved9 := by constructor <;> decide
theorem OpField.reservedA : OpField.Statement .reservedA := by constructor <;> decide
theorem OpField.reservedB : OpField.Statement .reservedB := by constructor <;> decide
theorem OpField.reservedC : OpField.Statement .reservedC := by constructor <;> decide
theorem OpField.reservedD : OpField.Statement .reservedD := by constructor <;> decide
theorem OpField.reservedE : OpField.Statement .reservedE := by constructor <;> decide
theorem OpField.sreset : OpField.Statement .sreset := by constructor <;> decide

end Sys2Proof.Laws
end

