-- ==== Sys2Proof/Laws/Step.lean ====
section
/-!
SUPPORT. What one step can do: one lemma that says it for every agent, so that a fact about steps needs
one proof for each kind of move.
-/

namespace Sys2Proof.Machine

/-- The moves of which every step is made. -/
inductive Move : State → State → Prop where
  /-- The host's turn. -/
  | host {s t : State} (h : hostTurn s = .next t) : Move s t
  /-- A controller step. -/
  | controller {s t : State} (hr : s.rst = false) (h : controllerStep s = .next t) : Move s t
  /-- The answer to a pending random-word request. -/
  | word {s : State} (w : Word) (h : s.request.isSome = true) :
    Move s (takeWord w { s with reqId := s.reqId + 1 })
  /-- The answer to a pending prime request. -/
  | prime {s : State} (e : Bool) (r : Nat) (h : s.request.isSome = true) :
    Move s (takePrime e r { s with reqId := s.reqId + 1 })
  /-- The reset input is asserted. -/
  | assert {s : State} : Move s { s with rst := true }
  /-- The reset input is released. -/
  | release {s : State} (h : s.rst = true) : Move s { s.hardReset with rst := false }
  /-- Pending bits that a completion set in the same cycle win over a clear. -/
  | pending {s : State} (d e : Bool) : Move s { s with doneIP := d, errIP := e }
  /-- A planned turn is taken from the plan. -/
  | plan {s : State} (ts : List Turn) : Move s { s with turns := ts }

/-- Sequences of moves. -/
inductive Moves : State → State → Prop where
  | refl {s : State} : Moves s s
  | tail {s t u : State} (h : Moves s t) (m : Move t u) : Moves s u

theorem Moves.trans {s t u : State} (h : Moves s t) (h' : Moves t u) : Moves s u := by
  induction h' with
  | refl => exact h
  | tail _ m ih => exact .tail ih m

theorem Moves.single {s t : State} (m : Move s t) : Moves s t := .tail .refl m

/-- A relation that is reflexive, transitive and holds of every move holds of every sequence. -/
theorem Moves.lift {R : State → State → Prop} (hr : ∀ s, R s s)
    (ht : ∀ s t u, R s t → R t u → R s u) (hm : ∀ s t, Move s t → R s t) {s t : State}
    (h : Moves s t) : R s t := by
  induction h with
  | refl => exact hr _
  | tail _ m ih => exact ht _ _ _ ih (hm _ _ m)

/-- A property that every move keeps is kept by every sequence. -/
theorem Moves.keeps {I : State → Prop} (hm : ∀ s t, I s → Move s t → I t) {s t : State} (hs : I s)
    (h : Moves s t) : I t := by
  induction h with
  | refl => exact hs
  | tail _ m ih => exact hm _ _ ih m

theorem moves_controllerTurn {s t : State} (h : controllerTurn s = .next t) : Moves s t := by
  rcases controllerTurn_cases h with rfl | ⟨hr, h⟩
  · exact .refl
  · exact .single (.controller hr h)

theorem moves_setWins (s c t : State) : Moves t (setWins s c t) := by
  unfold setWins
  split
  · exact .single (.pending _ _)
  · exact .refl

theorem moves_takeTurn {turn : Turn} {s t : State} (h : takeTurn turn s = .next t) : Moves s t := by
  cases turn with
  | host => exact .single (.host h)
  | controller => exact moves_controllerTurn h
  | together hostFirst =>
    simp only [takeTurn, together] at h
    split at h
    · exact .single (.host h)
    · split at h
      · obtain ⟨u, h1, h2⟩ := andThen_next h
        exact (Moves.single (.host h1)).trans (moves_controllerTurn h2)
      · obtain ⟨u, h1, h2⟩ := andThen_next h
        obtain ⟨v, h3, h4⟩ := andThen_next h2
        cases h4
        exact ((moves_controllerTurn h1).trans (.single (.host h3))).trans (moves_setWins _ _ _)
  | randomAnswer tag w =>
    cases h
    rcases answer_cases tag false (takeWord w) s with h | ⟨hs, _, h⟩
    · rw [h]; exact .refl
    · rw [h]; exact .single (.word w hs)
  | primeAnswer tag e r =>
    cases h
    rcases answer_cases tag true (takePrime e r) s with h | ⟨hs, _, h⟩
    · rw [h]; exact .refl
    · rw [h]; exact .single (.prime e r hs)
  | assertReset => cases h; exact .single .assert
  | releaseReset =>
    cases h
    split
    · exact .single (.release ‹_›)
    · exact .refl

theorem takeTurns_cons {turn : Turn} {ts : List Turn} {s t : State} (h : takeTurn turn s = .next t) :
    takeTurns (turn :: ts) s = takeTurns ts t := by rw [takeTurns, h]; rfl

/-- Turns taken in two parts. -/
theorem takeTurns_append (ts us : List Turn) (s : State) :
    takeTurns (ts ++ us) s = andThen (takeTurns ts s) (takeTurns us) := by
  induction ts generalizing s with
  | nil => rfl
  | cons turn ts ih =>
    simp only [List.cons_append, takeTurns]
    cases takeTurn turn s with
    | next t => exact ih t
    | fault e => rfl
    | refused e => rfl

/-- Every step is a sequence of moves. -/
theorem moves_of_step {s t : State} (h : step s = .next t) : Moves s t := by
  unfold step nextMove at h
  split at h
  · exact (Moves.single (.plan _)).trans (moves_takeTurn h)
  · exact moves_takeTurn h

/-- Everything that one step can do, agent by agent. `s'` is the state with the planned turn taken from
the plan. -/
theorem step_cases {s t : State} (h : step s = .next t) :
    ∃ s' : State, s' = { s with turns := s'.turns } ∧ (
    (s.HostMoves ∧ hostTurn s' = .next t) ∨
    (controllerTurn s' = .next t) ∨
    (s.HostMoves ∧ s'.controllerReady = true ∧
      ∃ u, hostTurn s' = .next u ∧ controllerTurn u = .next t) ∨
    (s.HostMoves ∧ s'.controllerReady = true ∧
      ∃ u v, controllerTurn s' = .next u ∧ hostTurn u = .next v ∧ t = setWins s' u v) ∨
    (∃ w, s'.request.isSome = true ∧ t = takeWord w { s' with reqId := s'.reqId + 1 }) ∨
    (∃ e r, s'.request.isSome = true ∧ t = takePrime e r { s' with reqId := s'.reqId + 1 }) ∨
    t = s' ∨ t = { s' with rst := true } ∨
    (s.Releases ∧ t = { s'.hardReset with rst := false })) := by
  unfold step nextMove at h
  split at h
  · rename_i turn ts hts
    refine ⟨{ s with turns := ts }, rfl, ?_⟩
    have hm : (turn = .host ∨ ∃ b, turn = .together b) → s.HostMoves := by
      rintro (rfl | ⟨b, rfl⟩) <;> simp [State.HostMoves, hts]
    cases turn with
    | host => exact .inl ⟨hm (.inl rfl), h⟩
    | controller => exact .inr (.inl h)
    | together b =>
      have hm := hm (.inr ⟨b, rfl⟩)
      simp only [takeTurn, together] at h
      split at h
      · exact .inl ⟨hm, h⟩
      · rename_i hr
        have hr : ({ s with turns := ts } : State).controllerReady = true := by simpa using hr
        split at h
        · exact .inr (.inr (.inl ⟨hm, hr, andThen_next h⟩))
        · obtain ⟨u, h1, h2⟩ := andThen_next h
          obtain ⟨v, h3, h4⟩ := andThen_next h2
          cases h4
          exact .inr (.inr (.inr (.inl ⟨hm, hr, u, v, h1, h3, rfl⟩)))
    | randomAnswer tag w =>
      cases h
      rcases answer_cases tag false (takeWord w) { s with turns := ts } with h | ⟨hs, _, h⟩ <;> rw [h]
      · simp
      · exact .inr (.inr (.inr (.inr (.inl ⟨w, hs, rfl⟩))))
    | primeAnswer tag e r =>
      cases h
      rcases answer_cases tag true (takePrime e r) { s with turns := ts } with h | ⟨hs, _, h⟩ <;> rw [h]
      · simp
      · exact .inr (.inr (.inr (.inr (.inr (.inl ⟨e, r, hs, rfl⟩)))))
    | assertReset => cases h; simp
    | releaseReset =>
      cases h
      split
      · rename_i hr
        exact .inr (.inr (.inr (.inr (.inr (.inr (.inr (.inr ⟨⟨hr, ts, hts⟩, rfl⟩)))))))
      · simp
  · rename_i hts
    refine ⟨s, rfl, ?_⟩
    simp only [State.defaultTurn] at h
    split at h
    · exact .inr (.inl h)
    · rename_i hr
      refine .inl ⟨?_, h⟩
      simpa [State.HostMoves, hts] using hr

/-- A legal write that the host's turn makes is the host's write of the step. -/
theorem hostWrites_of_turn {s s' : State} {ad : Nat} {l : Loc} {v : Word} {rest : List HostOp}
    (hm : s.HostMoves) (hh : s'.host = .access (.write ad 32 0xF#4 v) :: rest)
    (hc : s'.cfg = s.cfg) (hp : s'.host = s.host) (hb : s'.cfg.base ≤ ad)
    (hw : ad < s'.cfg.base + 0x4000) (h4 : (ad - s'.cfg.base) % 4 = 0)
    (hl : locate s'.cfg (ad - s'.cfg.base) = some l) : s.HostWrites l v := by
  rw [hc] at hb hw h4 hl
  exact ⟨hm, ad, rest, by rw [← hp, hh], hb, hw, h4, hl⟩

end Sys2Proof.Machine
end

