-- ==== Sys2Proof/Tests/Slice0.lean ====
section
/-!
SUPPORT. Tests with expected values from spec/95_test_vectors.md (the vector is named at each), the
refusals of the well-formedness checks, the decoding of words written out from Table T30.2, and a
witness of the hypotheses of every statement.
-/

namespace Sys2Proof.Tests

open Sys2Proof Sys2Proof.Machine

-- The tests are checked one after another, which bounds the threads of one compilation.
set_option Elab.async false

/-! ## Helpers -/

/-- The block of the vectors: K = 64, so BW = 96, NW = 3, D = 16, LMAX = 2. -/
def small : Config := { keyBits := 64, maxRetries := some 0, base := 0x4000 }

/-- The block of the vectors, idle after reset. -/
def idle : State := State.resetOf small

/-- The block in a controller state. -/
def inState (c : Ctrl) : State := { idle with ctrl := c }

/-- The block with P and Q. -/
def primes (p q : Nat) : State := { idle with P := wordsOf 3 p, Q := wordsOf 3 q }

/-- The block with bytes in BLK, and BLK_LEN their number, in the state DE_RUN. -/
def decoding (ds : List Nat) : State :=
  { idle with
    ctrl := .deRun, lastOp := 5, blkLen := BitVec.ofNat 16 ds.length
    mem := Memory.writeBytes [] 0x3400 (ds.map chr) }

/-- The block with a message in MSG. -/
def withMessage (msg : List Byte) : State :=
  { idle with msgLen := BitVec.ofNat 16 msg.length, mem := Memory.writeBytes [] 0x3000 msg }

/-- The move answers a next state with this property. -/
def gives (r : Result) (p : State → Bool) : Bool :=
  match r with
  | .next s => p s
  | .fault _ | .refused _ => false

/-- The fault of a move. -/
def faultOf (r : Result) : Option Fault :=
  match r with
  | .fault e => some e
  | .next _ | .refused _ => none

/-- The refusal of a move. -/
def refusalOf (r : Result) : Option Refusal :=
  match r with
  | .refused e => some e
  | .next _ | .fault _ => none

/-- The host's program is one access. -/
def doing (a : Access) (s : State) : State := { s with host := [.access a] }

/-- The host's program is one write. -/
def writing (off : Nat) (v : Word) (s : State) : State := { s with host := [wrOp s.cfg off v] }

/-! ## Well-formedness -/

theorem test_wf_standard : Config.standard.wf = true := by decide
theorem test_wf_smallest : ({ small with keyBits := 64 } : Config).wf = true := by decide
theorem test_wf_largest : ({ small with keyBits := 4096 } : Config).wf = true := by decide
theorem test_wf_refuses_not_multiple : ({ small with keyBits := 96 } : Config).wf = false := by decide
theorem test_wf_refuses_too_small : ({ small with keyBits := 0 } : Config).wf = false := by decide
theorem test_wf_refuses_too_large : ({ small with keyBits := 4160 } : Config).wf = false := by decide
theorem test_wf_refuses_base : ({ small with base := 0x2000 } : Config).wf = false := by decide
theorem test_wf_line :
    Pseudo.wf small (.wrBig .A (2 ^ 96 - 1)) = true ∧ Pseudo.wf small (.wrBytes .msg [1, 2]) = true ∧
      Pseudo.wf small (.wrDigits [9]) = true ∧ Pseudo.wf small (.command .sreset) = true := by
  decide
theorem test_wf_refuses_offset :
    Pseudo.wf small (.wr 0x4000 0) = false ∧ Pseudo.wf small (.rd 0x4000) = false := by decide
theorem test_wf_refuses_reserved_mnemonic : Pseudo.wf small (.command .reserved6) = false := by decide
theorem test_wf_refuses_wide_value : Pseudo.wf small (.wrBig .A (2 ^ 96)) = false := by decide
theorem test_wf_refuses_long_bytes : Pseudo.wf small (.wrBytes .msg [1, 2, 3]) = false := by decide
theorem test_wf_refuses_long_read : Pseudo.wf small (.rdBytes .blk 17) = false := by decide
theorem test_wf_refuses_digit : Pseudo.wf small (.wrDigits [1, 10]) = false := by decide
theorem test_wf_refuses_many_digits :
    Pseudo.wf small (.wrDigits (List.replicate 17 1)) = false := by decide

/-! ## Decoding: words written out from Table T30.2, OP in [3:0] -/

theorem test_decode_nop : decode 0b00000000000000000000000000000000#32 = .nop := by decide
theorem test_decode_egcd : decode 0b00000000000000000000000000000001#32 = .egcd := by decide
theorem test_decode_keygen : decode 0b00000000000000000000000000000010#32 = .keygen := by decide
theorem test_decode_derive : decode 0b00000000000000000000000000000011#32 = .derive := by decide
theorem test_decode_encode : decode 0b00000000000000000000000000000100#32 = .encode := by decide
theorem test_decode_decode : decode 0b00000000000000000000000000000101#32 = .decode := by decide
theorem test_decode_6 : decode 0b00000000000000000000000000000110#32 = .reserved6 := by decide
theorem test_decode_7 : decode 0b00000000000000000000000000000111#32 = .reserved7 := by decide
theorem test_decode_8 : decode 0b00000000000000000000000000001000#32 = .reserved8 := by decide
theorem test_decode_9 : decode 0b00000000000000000000000000001001#32 = .reserved9 := by decide
theorem test_decode_A : decode 0b00000000000000000000000000001010#32 = .reservedA := by decide
theorem test_decode_B : decode 0b00000000000000000000000000001011#32 = .reservedB := by decide
theorem test_decode_C : decode 0b00000000000000000000000000001100#32 = .reservedC := by decide
theorem test_decode_D : decode 0b00000000000000000000000000001101#32 = .reservedD := by decide
theorem test_decode_E : decode 0b00000000000000000000000000001110#32 = .reservedE := by decide
theorem test_decode_sreset : decode 0b00000000000000000000000000001111#32 = .sreset := by decide

/-- V-CT-3: bits [31:4] are ignored. -/
theorem test_decode_ignores_high_bits :
    decode 0b11111111111111111111111111110001#32 = .egcd := by decide

/-- A command is one word (R104). -/
theorem test_decode_refuses_longer : decodeTableWord 40 1 = none := by decide

/-! ## Commands -/

/-- V-CT-1. -/
theorem test_nop :
    gives (exec .nop { idle with done := true, lastOp := 1 }) (fun t =>
      t.readLoc .status == 0x002#32 && t.readLoc .cmd == 1#32) = true := by decide +kernel

/-- V-CT-4: a command is rejected in the busy window. -/
theorem test_busy_rejects :
    gives (exec .egcd { inState (.kgDrawP 0 []) with lastOp := 2 }) (fun t =>
      t.readLoc .status == 0x1001#32 && t.ctrl == .kgDrawP 0 []) = true := by decide +kernel

/-- V-EG-1. -/
theorem test_egcd :
    gives (takeTurn .controller { inState .egRun with A := wordsOf 3 240, B := wordsOf 3 46 }) (fun t =>
      t.X == [0xFFFFFFF7, 0xFFFFFFFF, 0xFFFFFFFF] && t.Y == [0x2F, 0, 0] && t.G == [2, 0, 0] &&
        t.iterCnt == 5 && t.readLoc .status == 0x2#32 && t.readLoc .irqStat == 1#32) = true := by
  decide +kernel

/-- V-EG-3: gcd(0, 0). -/
theorem test_egcd_zero :
    gives (takeTurn .controller (inState .egRun)) (fun t =>
      t.X == [1, 0, 0] && t.Y == [0, 0, 0] && t.G == [0, 0, 0] && t.iterCnt == 0) = true := by
  decide +kernel

/-- P6, line 1: KEYGEN clears KEYVALID and raises a request for a random word. -/
theorem test_keygen_accepted :
    gives (exec .keygen { idle with keyValid := true, done := true }) (fun t =>
      t.readLoc .status == 0x1#32 && t.request == some .randomWord) = true := by decide +kernel

/-- V-KG-6: an answer below the candidate. -/
theorem test_keygen_below_candidate :
    gives (takeTurn (.primeAnswer 0 false 97) (inState (.kgPrimeP 0 100))) (fun t =>
      t.readLoc .status == 0x264#32 && t.P == [0, 0, 0]) = true := by decide +kernel

/-- V-DV-8: N overflows. -/
theorem test_derive_overflow :
    gives (takeTurn .controller { primes (2 ^ 48) (2 ^ 48) with ctrl := .dvCheck }) (fun t =>
      t.readLoc .status == 0x354#32 && t.ctrl == .idle) = true := by decide +kernel

/-- V-DV-1: EGCD(3120, 65537) has y = -367 after 6 steps. -/
theorem test_derive_egcd :
    gives (takeTurn .controller (inState (.kgEgcd .derive 3233 3120))) (fun t =>
      t.iterCnt == 6 && t.ctrl == .kgCheck .derive 3233 3120 ⟨7709, -367, 1, 6⟩) = true := by
  decide +kernel

/-- V-EN-2: the last step of ENCODE "Hi" with filler "9". -/
theorem test_encode :
    gives (takeTurn .controller { withMessage [0x48, 0x69] with ctrl := .enRun (some [0x39]) }) (fun t =>
      [0, 1, 2, 3].map (fun j => t.readLoc (.buf .blk j)) ==
          [0x30303031, 0x30393230, 0x37303030, 0x35303132] &&
        t.readLoc .blkLen == 16#32 && t.readLoc .status == 0x02#32) = true := by decide +kernel

/-- V-EN-5: one byte more than LMAX. -/
theorem test_encode_too_long :
    gives (takeTurn .controller { inState (.enRun none) with msgLen := 3 }) (fun t =>
      t.readLoc .status == 0x24#32 && t.mem == []) = true := by decide +kernel

/-- V-DE-2. -/
theorem test_decode_block :
    gives (takeTurn .controller (decoding [1, 0, 0, 0, 0, 2, 2, 0, 0, 0, 0, 7, 2, 1, 0, 5])) (fun t =>
      t.readLoc (.buf .msg 0) == 0x00006948#32 && t.readLoc .msgLen == 2#32 &&
        t.readLoc .status == 0x002#32) = true := by decide +kernel

/-- V-DE-12: BAD_DELIMITER at 11. -/
theorem test_decode_bad_delimiter :
    gives (takeTurn .controller (decoding [1, 0, 0, 0, 0, 2, 1, 2, 3, 4, 0, 1, 0, 0, 6, 5])) (fun t =>
      t.readLoc .errPos == 11#32 && t.readLoc .status == 0x434#32 && t.readLoc .msgLen == 0#32) =
      true := by decide +kernel

/-- The end of a reserved opcode on an idle block, as V-CT-2 gives it for 0x7. -/
def illegal (op : Word) (t : State) : Bool :=
  t.readLoc .status == 0x014#32 && t.readLoc .irqStat == 2#32 && t.readLoc .cmd == op

theorem test_reserved6 : gives (exec .reserved6 idle) (illegal 0x6) = true := by decide +kernel
theorem test_reserved7 : gives (exec .reserved7 idle) (illegal 0x7) = true := by decide +kernel
theorem test_reserved8 : gives (exec .reserved8 idle) (illegal 0x8) = true := by decide +kernel
theorem test_reserved9 : gives (exec .reserved9 idle) (illegal 0x9) = true := by decide +kernel
theorem test_reservedA : gives (exec .reservedA idle) (illegal 0xA) = true := by decide +kernel
theorem test_reservedB : gives (exec .reservedB idle) (illegal 0xB) = true := by decide +kernel
theorem test_reservedC : gives (exec .reservedC idle) (illegal 0xC) = true := by decide +kernel
theorem test_reservedD : gives (exec .reservedD idle) (illegal 0xD) = true := by decide +kernel
theorem test_reservedE : gives (exec .reservedE idle) (illegal 0xE) = true := by decide +kernel

/-- V-CT-7. -/
theorem test_sreset :
    gives (exec .sreset { inState (.kgDrawP 0 []) with N := wordsOf 3 3233, lastOp := 2 }) (fun t =>
      t.N == [0, 0, 0] && t.readLoc .status == 0#32 && t.ctrl == .idle && t.request == none) = true := by
  decide +kernel

/-! ## Host accesses -/

/-- V-CT-5. -/
theorem test_busy_write :
    gives (takeTurn .host (writing 0x400 5 (inState (.kgDrawP 0 [])))) (fun t =>
      t.A == [0, 0, 0] && t.wign) = true := by decide +kernel

/-- V-CT-8. -/
theorem test_misaligned :
    gives (takeTurn .host (doing (.read 0x4402 32) idle)) (fun t =>
      t.busErr && t.trace == [⟨false, some 0⟩]) = true := by decide +kernel

/-- V-CT-9. -/
theorem test_reserved_location :
    gives (takeTurn .host { idle with host := [rdOp small 0x40C] }) (fun t =>
      t.busErr && t.trace == [⟨false, some 0⟩]) = true := by decide +kernel

/-- V-CT-10. -/
theorem test_read_only :
    gives (takeTurn .host (writing 0x2000 7 idle)) (fun t =>
      t.N == [0, 0, 0] && !t.busErr && t.trace == [⟨true, none⟩]) = true := by decide +kernel

/-- V-CT-11. -/
theorem test_irq_clear :
    gives (takeTurn .host (writing 0x14 2 { idle with doneIP := true, errIP := true, errIE := true }))
      (fun t => t.readLoc .irqStat == 1#32 && !t.irq) = true := by decide +kernel

/-- V-CT-12. -/
theorem test_msg_lanes :
    gives (takeTurn .host (writing 0x3000 0x44434241 idle)) (fun t =>
      t.mem == [(0x3000, 0x41), (0x3001, 0x42)] && t.readLoc (.buf .msg 0) == 0x00004241#32) = true := by
  decide +kernel

/-- V-CT-13. -/
theorem test_constants :
    idle.readLoc .id = 0x52534101#32 ∧ idle.readLoc .param = 0x00020040#32 ∧
      idle.readLoc (.big .E 0) = 0x00010001#32 := by decide +kernel

/-- P1, lines 1 to 6: WRBIG and its triples (spec/30_encoding.md R107, R108). -/
theorem test_expand :
    Pseudo.expand small (.wrBig .A 240) =
      [wrOp small 0x400 0xF0, wrOp small 0x404 0, wrOp small 0x408 0] ∧
    Pseudo.expand small (.wrBytes .msg [0x48, 0x69]) = [wrOp small 0x3000 0x6948] ∧
    Pseudo.expand small .ack = [wrOp small 0x14 3] := by decide +kernel

/-! ## Witnesses: states and operands that meet the hypotheses of the statements -/

/-- A decidable form of the parts of the invariant other than the latches. -/
def checks (s : State) : Bool :=
  s.cfg.wf &&
  ([BigName.A, .B, .X, .Y, .G, .P, .Q, .N, .PHI, .D, .E].all fun r =>
    (s.getBig r).length == s.cfg.nw) &&
  decide s.mem.wf &&
  (s.mem.all fun c => (decide (0x3000 ≤ c.1) && decide (c.1 < 0x3000 + s.cfg.lmax)) ||
    (decide (0x3400 ≤ c.1) && decide (c.1 < 0x3400 + s.cfg.dcap))) &&
  !s.err && s.errCode == 0 && s.subcause == 0 && s.errPos == 0 && !(s.busy && s.done) && !s.keyValid &&
  (match s.ctrl.command with
   | some i => s.lastOp == i.op
   | none => true)

theorem inv_of_checks {s : State} (h : checks s = true) (hl : s.LatchesOk) : s.Inv := by
  simp only [checks, Bool.and_eq_true, Bool.not_eq_true', beq_iff_eq, decide_eq_true_eq,
    List.all_eq_true, Bool.or_eq_true, Bool.and_eq_false_iff] at h
  obtain ⟨⟨⟨⟨⟨⟨⟨⟨⟨⟨hc, hw⟩, hm⟩, hi⟩, he⟩, hec⟩, hsc⟩, hep⟩, hd⟩, hk⟩, ho⟩ := h
  refine ⟨hc, fun r => hw r (by cases r <;> simp), ⟨hm, fun c h => ?_⟩, ?_, hl⟩
  · rcases hi c h with ⟨h1, h2⟩ | ⟨h1, h2⟩
    · exact ⟨.msg, c.1 - 0x3000, by show _ < s.cfg.lmax; omega, by show _ = 0x3000 + _; omega⟩
    · exact ⟨.blk, c.1 - 0x3400, by show _ < s.cfg.dcap; omega, by show _ = 0x3400 + _; omega⟩
  · refine ⟨by simp [he], fun _ => ⟨hec, hsc, hep⟩, by simp [he], fun h => absurd hep h,
      fun hb => ⟨?_, he⟩, fun i hi => ?_, fun _ => hk⟩
    · rcases hd with hd | hd
      · rw [hb] at hd; cases hd
      · exact hd
    · rw [hi] at ho; exact beq_iff_eq.mp ho

theorem witness_inv_idle : idle.Inv := inv_of_checks (by decide +kernel) trivial

theorem witness_ready_idle : idle.Ready := ⟨rfl, rfl⟩

/-- A busy state that a run reaches: KEYGEN waits for its first word. -/
def waiting : State := { inState (.kgDrawP 0 []) with lastOp := 2 }

theorem witness_inv_waiting : waiting.Inv :=
  inv_of_checks (by decide +kernel) (show 0 < small.candWords by decide)

theorem witness_DecodeEncodeAgree : Instr.sreset.wf = true ∧ decode 0xFFFFFFFF#32 = .sreset := by decide

theorem witness_StepRunsDecodedCommand :
    let s := writing 0x008 0xFFFFFFF1 idle
    s.rst = false ∧ s.host = wrOp s.cfg 0x008 0xFFFFFFF1 :: [] ∧ s.controllerReady = false ∧
      { s with turns := [.host] }.turns = .host :: [] ∧ s.turns = [] ∧ 32 ≤ 32 := by decide +kernel

/-- The ends of every reserved range of the small block, and one misaligned offset. -/
theorem witness_IllegalAccessGetsError :
    idle.rst = false ∧
    (∀ off ∈ [0x02C, 0x3FF, 0x40C, 0x7FC, 0x2C0C, 0x2FFC, 0x3004, 0x33FC, 0x3410, 0x37FC, 0x3800, 0x3FFC],
      off < 0x4000 ∧ ReservedOffset idle.cfg off) ∧ 0x402 % 4 ≠ 0 ∧ 16 ≠ 32 ∧ 0x7#4 ≠ 0xF#4 := by
  refine ⟨rfl, fun off h => ?_, by decide, by decide, by decide⟩
  simp only [List.mem_cons, List.not_mem_nil, or_false] at h
  rcases h with rfl | rfl | rfl | rfl | rfl | rfl | rfl | rfl | rfl | rfl | rfl | rfl <;>
    exact ⟨by decide, by simp [ReservedOffset, idle, small, State.resetOf, Config.nw, Config.lmax,
      Config.dcap]⟩

/-- The first and last implemented word of each region of the small block, and the bounds of the word
numbers. -/
theorem witness_LegalAccessReachesItsRegister :
    (idle.cfg.wf = true ∧ 2 < idle.cfg.nw ∧ 0 < (idle.cfg.lmax + 3) / 4 ∧ 3 < idle.cfg.dcap / 4) ∧
    idle.rst = false ∧
    (∀ off ∈ [0x000, 0x028, 0x400, 0x408, 0x2C00, 0x2C08, 0x3000, 0x3400, 0x340C],
      off < 0x4000 ∧ off % 4 = 0 ∧ ¬ReservedOffset idle.cfg off) := by
  refine ⟨by decide, rfl, fun off h => ?_⟩
  simp only [List.mem_cons, List.not_mem_nil, or_false] at h
  rcases h with rfl | rfl | rfl | rfl | rfl | rfl | rfl | rfl | rfl <;>
    exact ⟨by decide, by decide, by simp [ReservedOffset, idle, small, State.resetOf, Config.nw,
      Config.lmax, Config.dcap]⟩

theorem witness_BigRegisterWordOrder :
    idle.cfg.wf = true ∧ idle.WidthsOk ∧ 0 < idle.cfg.nw ∧ 2 < idle.cfg.nw ∧
      idle.isDestination (.big .X 2) = false ∧ idle.busy = false ∧ BigName.A.hostWritable = true :=
  ⟨by decide, witness_inv_idle.widths, by decide, by decide, by decide, by decide, by decide⟩

/-- The last word of MSG has two lanes beyond the buffer; that of BLK none. -/
theorem witness_BufferByteOrder :
    idle.cfg.wf = true ∧ idle.busy = false ∧ 0 < Buf.msg.words idle.cfg ∧ 3 < Buf.blk.words idle.cfg ∧
      4 * 0 + 1 < Buf.msg.size idle.cfg ∧ ¬4 * 0 + 2 < Buf.msg.size idle.cfg ∧
      4 * 3 + 3 < Buf.blk.size idle.cfg := by decide

theorem witness_ReadsHaveNoSideEffect :
    gives (busAccess (.read 0x4000 32) idle) (fun _ => true) = true ∧
      gives (busAccess (.read 0x7FFF 8) idle) (fun t => t.busErr) = true := by decide +kernel

/-- A location of each clause: read-only registers, STATUS, both lengths, and the word of MSG with two
lanes beyond the buffer. -/
theorem witness_ReadOnlyWritesIgnored :
    idle.rst = false ∧ idle.cfg.wf = true ∧
    locate idle.cfg 0x000 = some .id ∧ locate idle.cfg 0x004 = some .param ∧
    locate idle.cfg 0x020 = some .errPos ∧ locate idle.cfg 0x024 = some .iterCnt ∧
    locate idle.cfg 0x028 = some .retryCnt ∧ locate idle.cfg 0x0C00 = some (.big .X 0) ∧
    locate idle.cfg 0x2C08 = some (.big .E 2) ∧ locate idle.cfg 0x00C = some .status ∧
    locate idle.cfg 0x018 = some .msgLen ∧ locate idle.cfg 0x01C = some .blkLen ∧
    locate idle.cfg 0x3000 = some (.buf .msg 0) ∧ 0x3000 < 0x4000 ∧ 0x3000 % 4 = 0 ∧
    (0xFFFF0002#32).extractLsb' 0 16 = (0x00000002#32).extractLsb' 0 16 ∧
    (∀ lane, lane < 4 → 4 * 0 + lane < idle.cfg.lmax →
      (0xFFFF4241#32).extractLsb' (8 * lane) 8 = (0x00004241#32).extractLsb' (8 * lane) 8) := by
  decide

/-- A busy block, and a location of each clause. -/
theorem witness_BusyWindowWrites :
    waiting.busy = true ∧ waiting.rst = false ∧
    locate waiting.cfg 0x018 = some .msgLen ∧ locate waiting.cfg 0x340C = some (.buf .blk 3) ∧
    locate waiting.cfg 0x0400 = some (.big .A 0) ∧ locate waiting.cfg 0x1C08 = some (.big .Q 2) ∧
    locate waiting.cfg 0x010 = some .irqEn ∧ locate waiting.cfg 0x014 = some .irqStat ∧
    locate waiting.cfg 0x00C = some .status ∧ locate waiting.cfg 0x028 = some .retryCnt ∧
    locate waiting.cfg 0x2C08 = some (.big .E 2) ∧ locate waiting.cfg 0x008 = some .cmd ∧
    0x340C < 0x4000 ∧ 0x340C % 4 = 0 := by decide

theorem witness_BusyWindowCommands : waiting.busy = true ∧ Instr.egcd ≠ .sreset := by decide

/-- A destination and another location of each command: KEYGEN (the block of the first two conjuncts),
EGCD, DERIVE, ENCODE and DECODE. -/
theorem witness_BusyWindowReads :
    waiting.Inv ∧ waiting.busy = true ∧
    waiting.isDestination (.big .P 2) = true ∧ waiting.isDestination .irqStat = false ∧
    (let s := inState .egRun
     s.isDestination .iterCnt = true ∧ s.isDestination .retryCnt = false) ∧
    (let s := inState .dvCheck
     s.isDestination .retryCnt = true ∧ s.isDestination (.big .A 0) = false) ∧
    (let s := inState (.enRun none)
     s.isDestination (.buf .blk 3) = true ∧ s.isDestination .msgLen = false) ∧
    (let s := inState .deRun
     s.isDestination .msgLen = true ∧ s.isDestination (.buf .blk 0) = false) :=
  ⟨witness_inv_waiting, by decide⟩

/-- MSG_LEN and BLK_LEN read the lengths that DECODE (V-DE-2) and ENCODE (V-EN-2) write, and ERR_POS the
position of a block without a delimiter. -/
theorem witness_ReadsReturnCurrentValues :
    idle.busy = false ∧ idle.isDestination .msgLen = false ∧ waiting.isDestination .blkLen = false ∧
    gives (takeTurn .controller (decoding [1, 0, 0, 0, 0, 2, 2, 0, 0, 0, 0, 7, 2, 1, 0, 5]))
      (fun t => !t.busy && t.readLoc .msgLen == 2) = true ∧
    gives (takeTurns [.controller, .randomAnswer 0 8, .controller]
      { withMessage [0x48, 0x69] with ctrl := .enRun none })
      (fun t => !t.busy && t.readLoc .blkLen == 16) = true ∧
    gives (takeTurn .controller (decoding [1, 0, 0, 0, 0, 2, 7]))
      (fun t => !t.busy && t.readLoc .errPos == 7) = true := by decide +kernel

theorem witness_ConstantRegisters :
    idle.cfg.wf = true ∧ State.reset.cfg.keyBits = 2048 ∧ idle.cfg.keyBits = 64 ∧ 1 ≤ 1 := by decide

/-- A success, a failure by a controller step, one by a prime answer, and a reserved opcode. -/
theorem witness_CompletionsSetPending :
    let e := { inState .egRun with lastOp := 1 }
    let p := { inState (.kgPrimeP 0 100) with lastOp := 2 }
    (gives (takeTurn .controller e) fun t => !e.doneIP && t.doneIP && !e.done && t.done) = true ∧
    (gives (takeTurn .controller (decoding [])) fun t => t.errIP && t.err) = true ∧
    (gives (takeTurn (.primeAnswer 0 true 0) p) fun t => !p.errIP && t.errIP && !p.err && t.err) = true ∧
    (gives (takeTurn .host (writing 0x008 0x7 idle)) fun t => t.errIP && t.err) = true := by
  decide +kernel

theorem witness_LengthRegisters : idle.busy = false := by decide

/-- SRESET, NOP, a command rejected in the busy window, and one accepted; CMD changes at the host's write
and at the release of reset. -/
theorem witness_CmdReadsLastAcceptedCommand :
    gives (exec .sreset waiting) (fun _ => true) = true ∧ gives (exec .nop idle) (fun _ => true) = true ∧
      gives (exec .egcd waiting) (fun _ => true) = true ∧
      gives (exec .egcd idle) (fun _ => true) = true ∧
      gives (step (writing 0x008 0x1 idle)) (fun t => t.readLoc .cmd != idle.readLoc .cmd) = true ∧
      gives (step { waiting with rst := true, turns := [.releaseReset] })
        (fun t => t.readLoc .cmd != waiting.readLoc .cmd) = true := by decide +kernel

/-- irq falls at each of the writes, and at the release of reset. -/
theorem witness_IrqLine :
    let s := { idle with doneIP := true, doneIE := true }
    s.irq = true ∧
    gives (step (writing 0x010 0 s)) (fun t => !t.irq) = true ∧
    gives (step (writing 0x014 1 s)) (fun t => !t.irq) = true ∧
    gives (step (writing 0x008 0xF s)) (fun t => !t.irq) = true ∧
    gives (step { s with rst := true, turns := [.releaseReset] }) (fun t => !t.irq) = true := by
  decide +kernel

/-- The host clears both bits in the cycle in which EGCD completes, and in which DECODE fails. -/
theorem witness_SetWinsOverClear :
    let s := writing 0x014 3 { inState .egRun with lastOp := 1 }
    let u := writing 0x014 3 (decoding [])
    (s.Inv ∧ s.rst = false ∧ s.controllerReady = true ∧ s.host = wrOp s.cfg 0x014 3 :: [] ∧
      gives (takeTurn (.together true) s) (fun t => !t.busy && t.done) = true ∧
      gives (takeTurn (.together false) s) (fun t => !t.busy && t.done) = true) ∧
    (u.Inv ∧ u.rst = false ∧ u.controllerReady = true ∧ u.host = wrOp u.cfg 0x014 3 :: [] ∧
      gives (takeTurn (.together true) u) (fun t => !t.busy && t.err) = true ∧
      gives (takeTurn (.together false) u) (fun t => !t.busy && t.err) = true) := by
  refine ⟨⟨inv_of_checks (by decide +kernel) trivial, ?_⟩,
    ⟨inv_of_checks (by decide +kernel) trivial, ?_⟩⟩ <;> decide +kernel

/-- SRESET when an ENCODE and when a DECODE is aborted, and hardware reset. -/
theorem witness_ResetValues :
    (inState (.enRun none)).ctrl.command = some .encode ∧
    (0x3400 ≤ 0x340F ∧ 0x340F < 0x3400 + idle.cfg.dcap) ∧
    (inState .deRun).ctrl.command = some .decode ∧
    (0x3000 ≤ 0x3001 ∧ 0x3001 < 0x3000 + idle.cfg.lmax) ∧
    { waiting with rst := true }.rst = true := by decide

theorem witness_ResetKeepsAgents :
    gives (exec .sreset waiting) (fun _ => true) = true ∧
      gives (takeTurn .releaseReset { waiting with rst := true }) (fun _ => true) = true := by
  decide +kernel

theorem witness_NopDoesNothing : idle.busy = false ∧ waiting.busy = true := by decide

theorem witness_ReservedOpcodesComplete :
    idle.busy = false ∧ { idle with errIE := true }.errIE = true ∧ waiting.busy = true := by decide

theorem witness_AcceptanceStartsCommand :
    idle.busy = false ∧ gives (exec .derive idle) (fun _ => true) = true ∧ Instr.reserved6.reserved = true ∧
      gives (exec .reserved6 idle) (fun _ => true) = true ∧
      gives (exec .sreset idle) (fun _ => true) = true := by decide +kernel

theorem witness_BezoutIdentity : 0 < 1 ∧ 46 ≠ 0 := by decide

theorem witness_CoefficientBound :
    0 < (egcd 3 3).g ∧ 0 < (egcd 0 1).g ∧ 2 ≤ 2 ∧ 3 < 2 ^ 2 ∧ 0 < 2 ^ 2 := by decide

theorem witness_StepCountBound :
    3 < 2 ^ 2 ∧ 2 < 2 ^ 2 ∧ small.wf = true ∧ 2 ^ 96 - 1 < 2 ^ small.bw := by decide

theorem witness_EgcdCommandCompletes : idle.Inv ∧ idle.Ready := ⟨witness_inv_idle, witness_ready_idle⟩

theorem witness_CandidateFromWords :
    waiting.cfg.wf = true ∧ waiting.rst = false ∧ [0xFFFFFFFF#32].length = waiting.cfg.candWords ∧
      waiting.ctrl = .kgDrawP 0 [] ∧ (inState (.kgDrawQ 0 61 [])).ctrl = .kgDrawQ 0 61 [] := by decide

/-- Each branch at a boundary: the answer c − 1, c, 2^33 − 1, 2^33. -/
theorem witness_PrimeAnswerChecks :
    idle.rst = false ∧ (∀ r ∈ [99, 100, 2 ^ 33 - 1, 2 ^ 33], r < 2 ^ idle.cfg.bw) ∧
      2 ^ (idle.cfg.keyBits / 2 + 1) = 2 ^ 33 ∧
      (inState (.kgPrimeP 0 100)).ctrl = .kgPrimeP 0 100 ∧
      (inState (.kgPrimeQ 0 61 100)).ctrl = .kgPrimeQ 0 61 100 := by decide +kernel

/-- V-DV-6, V-DV-7, V-DV-8. -/
theorem witness_DeriveOperandChecks :
    (primes 1 5).Ready ∧ (primes 1 5).P.value < 2 ∧ (primes 5 1).Ready ∧ (primes 5 1).Q.value < 2 ∧
      (primes (2 ^ 48) (2 ^ 48)).Ready ∧
      2 ^ small.bw ≤ (primes (2 ^ 48) (2 ^ 48)).P.value * (primes (2 ^ 48) (2 ^ 48)).Q.value :=
  ⟨⟨rfl, rfl⟩, by decide +kernel, ⟨rfl, rfl⟩, by decide +kernel, ⟨rfl, rfl⟩, by decide +kernel⟩

theorem witness_NormalisationLoop :
    idle.rst = false ∧ 0 < 1 ∧ (0 : Int) ≤ 0 ∧ (-1 : Int) < 0 ∧
      (inState (.kgNorm .derive 4 1 (-1))).ctrl = .kgNorm .derive 4 1 (-1) ∧
      (inState (.kgNorm (.keygen 2) 4 1 0)).ctrl = .kgNorm (.keygen 2) 4 1 0 := by decide

/-- At the limit 0 (V-KG-5), and past it with a fresh attempt. -/
theorem witness_KeygenRetryRule :
    idle.rst = false ∧ (egcd 47710936 65537).g ≠ 1 ∧ idle.cfg.maxRetries = some 0 ∧
      State.reset.cfg.maxRetries ≠ some 0 := by decide +kernel

/-- V-DV-1, and V-DV-2: φ = 1. -/
theorem witness_DeriveCommitsKey :
    ∀ s ∈ [primes 61 53, primes 2 2], s.Inv ∧ s.Ready ∧ 2 ≤ s.P.value ∧ 2 ≤ s.Q.value ∧
      s.P.value * s.Q.value < 2 ^ s.cfg.bw ∧
      Nat.gcd ((s.P.value - 1) * (s.Q.value - 1)) 65537 = 1 := by
  intro s h
  simp only [List.mem_cons, List.not_mem_nil, or_false] at h
  rcases h with rfl | rfl <;>
    exact ⟨inv_of_checks (by decide +kernel) trivial, ⟨rfl, rfl⟩, by decide +kernel⟩

/-- V-DV-5. -/
theorem witness_DeriveRejectsNonCoprime :
    let s := primes 917519 53
    s.Inv ∧ s.Ready ∧ 2 ≤ s.P.value ∧ 2 ≤ s.Q.value ∧ s.P.value * s.Q.value < 2 ^ s.cfg.bw ∧
      Nat.gcd ((s.P.value - 1) * (s.Q.value - 1)) 65537 ≠ 1 :=
  ⟨inv_of_checks (by decide +kernel) trivial, ⟨rfl, rfl⟩, by decide +kernel⟩

/-- V-KG-2, with an answer of 33 bits and the answer 2. -/
theorem witness_KeygenCommitsKey :
    idle.Inv ∧ idle.Ready ∧ [0xFFFFFFFF#32].length = idle.cfg.candWords ∧
      [0x00000000#32].length = idle.cfg.candWords ∧ 2 ≤ 0x10000000F ∧ 2 ≤ 2 ∧
      BigReg.value [0xFFFFFFFF#32] ≤ 0x10000000F ∧ BigReg.value [0x00000000#32] ≤ 2 ∧
      0x10000000F < 2 ^ (idle.cfg.keyBits / 2 + 1) ∧ 2 < 2 ^ (idle.cfg.keyBits / 2 + 1) ∧
      Nat.gcd ((0x10000000F - 1) * (2 - 1)) 65537 = 1 :=
  ⟨witness_inv_idle, witness_ready_idle, by decide +kernel⟩

/-- L = LMAX and LMAX + 1; and a filler that is not empty. -/
theorem witness_EncodeLengthBound :
    { idle with msgLen := 2 }.Ready ∧ (2#16).toNat ≤ idle.cfg.lmax ∧ idle.cfg.lmax < (3#16).toNat ∧
      0 < idle.cfg.dcap - 9 - 3 * (2#16).toNat := ⟨⟨rfl, rfl⟩, by decide⟩

/-- V-EN-2 (L = LMAX), and V-EN-3 (the empty message). -/
theorem witness_EncodeBuildsPaddedBlock :
    (let s := withMessage [0x48, 0x69]
     s.Inv ∧ s.Ready ∧ s.MessageIs [0x48, 0x69] ∧ [0x48#8, 0x69#8].length ≤ s.cfg.lmax ∧
       [8#32].length = s.cfg.dcap - 9 - 3 * [0x48#8, 0x69#8].length) ∧
    (idle.Inv ∧ idle.Ready ∧ idle.MessageIs [] ∧
      [0#32, 1, 2, 3, 4, 5, 6].length = idle.cfg.dcap - 9 - 3 * 0) :=
  ⟨⟨inv_of_checks (by decide +kernel) trivial, ⟨rfl, rfl⟩, ⟨by decide +kernel, by decide +kernel⟩,
    by decide, by decide⟩, witness_inv_idle, witness_ready_idle,
    ⟨by decide +kernel, by decide +kernel⟩, by decide⟩

theorem witness_DecodeAcceptsExactlyBlocks :
    (∀ d ∈ [9, 9, 9, 9, 9, 9, 0, 0, 0, 2, 5, 5], d < 10) ∧
      decodeDigits [9, 9, 9, 9, 9, 9, 0, 0, 0, 2, 5, 5] = .ok [255] := by decide +kernel

/-- V-DE-2 (L = LMAX), and V-DE-4 (the empty message, n < D). -/
theorem witness_DecodeCommandCompletes :
    ∀ p ∈ [([1, 0, 0, 0, 0, 2, 2, 0, 0, 0, 0, 7, 2, 1, 0, 5], [0x48#8, 0x69#8]),
        ([1, 0, 0, 0, 0, 2, 1, 2, 3, 4, 0, 0, 0], [])],
      let s := { decoding p.1 with ctrl := .idle }
      s.Inv ∧ s.Ready ∧ s.blkLen.toNat ≤ s.cfg.dcap ∧ (∀ d ∈ p.1, d < 10) ∧
        s.bufBytes .blk s.blkLen.toNat = p.1.map (fun d => some (BitVec.ofNat 8 (0x30 + d))) ∧
        decodeDigits p.1 = .ok p.2 := by
  intro p h
  simp only [List.mem_cons, List.not_mem_nil, or_false] at h
  rcases h with rfl | rfl <;>
    exact ⟨inv_of_checks (by decide +kernel) trivial, ⟨rfl, rfl⟩, by decide +kernel⟩

/-- The empty block of V-DE-11 for the first clause; for the second, a block of each format error: no
delimiter, V-DE-11; a bad delimiter; a cut group; and a code above 255, each with its position. -/
theorem witness_DecodeErrorWritesNothing :
    ((decoding []).Inv ∧ (decoding []).rst = false ∧ (decoding []).ctrl = .deRun ∧
      gives (takeTurn .controller (decoding [])) (fun u => !u.done) = true) ∧
    ∀ p ∈ [([], ErrCause.noDelimiter, 0), ([1, 0, 0, 0, 0, 2, 7, 0, 0, 4], .badDelimiter, 9),
        ([1, 0, 0, 0, 0, 2, 0, 0, 0, 1, 2], .truncatedGroup, 9),
        ([1, 0, 0, 0, 0, 2, 7, 0, 0, 0, 0, 7, 2, 2, 5, 6], .codeRange, 13)],
      let s := decoding p.1
      s.Inv ∧ s.rst = false ∧ s.ctrl = .deRun ∧ s.blkLen.toNat ≤ s.cfg.dcap ∧ (∀ d ∈ p.1, d < 10) ∧
        s.bufBytes .blk s.blkLen.toNat = p.1.map (fun d => some (BitVec.ofNat 8 (0x30 + d))) ∧
        decodeDigits p.1 = .error p.2 := by
  refine ⟨⟨inv_of_checks (by decide +kernel) trivial, by decide +kernel⟩, fun p h => ?_⟩
  simp only [List.mem_cons, List.not_mem_nil, or_false] at h
  rcases h with rfl | rfl | rfl | rfl <;>
    exact ⟨inv_of_checks (by decide +kernel) trivial, by decide +kernel⟩

/-- n = D + 1 (V-DE-6); n = D with the byte 5 not a digit (V-DE-7: "A" is 0x30 + 17), and with a byte
whose written mark is clear. -/
theorem witness_DecodeLengthAndDigitChecks :
    (let s := { decoding [] with blkLen := 17 }
     s.Inv ∧ s.rst = false ∧ s.ctrl = .deRun ∧ s.cfg.dcap < s.blkLen.toNat) ∧
    (let s := decoding [1, 0, 0, 0, 0, 17, 1, 2, 3, 4, 0, 0, 0, 0, 6, 5]
     s.Inv ∧ s.rst = false ∧ s.ctrl = .deRun ∧ s.blkLen.toNat ≤ s.cfg.dcap ∧ 5 < s.blkLen.toNat ∧
      ([0, 1, 2, 3, 4].all fun i => (s.bufByte .blk i).any isDig) = true ∧
      s.bufByte .blk 5 = some 0x41#8 ∧ ¬(0x30 ≤ (0x41#8).toNat ∧ (0x41#8).toNat ≤ 0x39)) ∧
    (let s := { decoding [1, 0] with blkLen := 16 }
     s.Inv ∧ s.rst = false ∧ s.ctrl = .deRun ∧ s.blkLen.toNat ≤ s.cfg.dcap ∧ 2 < s.blkLen.toNat ∧
      ([0, 1].all fun i => (s.bufByte .blk i).any isDig) = true ∧ s.bufByte .blk 2 = none) := by
  refine ⟨⟨inv_of_checks (by decide +kernel) trivial, ?_⟩,
    ⟨inv_of_checks (by decide +kernel) trivial, ?_⟩,
    ⟨inv_of_checks (by decide +kernel) trivial, ?_⟩⟩ <;> decide +kernel

/-- V-DE-8 (a short header); V-DE-12, V-DE-13 and V-DE-15 after the header and filler. -/
theorem witness_DecodeFormatErrors :
    [1, 0, 0].length < 6 ∧ [1, 0, 0, 0, 0, 2].length = 6 ∧ (∀ d ∈ [1, 2, 3, 4], d ≠ 0) ∧ 1 ≠ 0 ∧
      [0, 6].length % 3 ≠ 0 ∧ ([] : List Nat).length % 3 = 0 ∧ 255 < 100 * 2 + 10 * 5 + 6 := by decide

/-- V-EN-2; the state after ENCODE itself meets the premises on the later state. -/
theorem witness_EncodeDecodeRoundTrip :
    let s := withMessage [0x48, 0x69]
    s.Inv ∧ s.Ready ∧ s.MessageIs [0x48, 0x69] ∧ [0x48#8, 0x69#8].length ≤ s.cfg.lmax ∧
      [8#32].length = s.cfg.dcap - 9 - 3 * [0x48#8, 0x69#8].length ∧
      gives (andThen (exec .encode s)
        (takeTurns ([.controller] ++ randomAnswers s.reqId [8] ++ [.controller])))
        (fun v => v.ctrl == .idle && !v.rst && v.blkLen == 16) = true :=
  ⟨inv_of_checks (by decide +kernel) trivial, ⟨rfl, rfl⟩, ⟨by decide +kernel, by decide +kernel⟩,
    by decide, by decide, by decide +kernel⟩

/-- A change of A and of P (the host), of X (EG_RUN), P (KG_PRIME_P), PHI (KG_ARITH) and N (KG_COMMIT),
and of N by SRESET. -/
theorem witness_RegistersChangeOnlyByTheirWriters :
    (gives (step (writing 0x400 5 idle)) fun t => t.A != idle.A) = true ∧
    (gives (step (writing 0x1808 5 idle)) fun t => t.P != idle.P) = true ∧
    (gives (step (inState .egRun)) fun t => t.X != idle.X) = true ∧
    (gives (step { inState (.kgPrimeP 0 100) with turns := [.primeAnswer 0 false 101] }) fun t =>
      t.P != idle.P) = true ∧
    (gives (step (inState (.kgArith .derive 61 53))) fun t => t.PHI != idle.PHI) = true ∧
    (gives (step (inState (.kgCommit .derive 3233 2753))) fun t => t.N != idle.N) = true ∧
    (gives (step (writing 0x008 0xF { idle with N := wordsOf 3 5 })) fun t =>
      t.N != wordsOf 3 5) = true := by decide +kernel

/-- KEYVALID rises at KG_COMMIT, and falls at SRESET and at DERIVE. -/
theorem witness_KeyValidChanges :
    (gives (step (inState (.kgCommit .derive 3233 2753))) fun t => t.keyValid) = true ∧
    (gives (step (writing 0x008 0xF { idle with keyValid := true })) fun t => !t.keyValid) = true ∧
    (gives (step (writing 0x008 0x3 { idle with keyValid := true })) fun t => !t.keyValid) = true := by
  decide +kernel

/-- The steps that raise an error, of DECODE and at a prime answer; and steps before one, of ENCODE, at a
drawn word and at an accepted prime answer. -/
theorem witness_FailingCommandKeepsResults :
    (gives (takeTurn .controller (decoding [])) fun u => !u.done && u.err) = true ∧
    (gives (takeTurn (.primeAnswer 0 true 5) (inState (.kgPrimeP 0 100))) fun u =>
      !u.done && u.err) = true ∧
    (gives (takeTurn .controller (inState (.enRun none))) fun u => !u.done && u.busy) = true ∧
    (gives (takeTurn (.randomAnswer 0 7) waiting) fun u => !u.done && u.busy) = true ∧
    (gives (takeTurn (.primeAnswer 0 false 101) (inState (.kgPrimeP 0 100))) fun u =>
      !u.done && u.busy) = true := by
  decide +kernel

/-- UninitRead in DECODE and in ENCODE; an access outside the window, and one under reset. -/
theorem witness_StopsOnlyWhereDeclared :
    (let s := { decoding [] with blkLen := 1 }
     s.Inv ∧ faultOf (step s) = some (.uninitRead 0x3400)) ∧
    (let s := { inState (.enRun (some [0x31, 0x31, 0x31, 0x31])) with lastOp := 4, msgLen := 1 }
     s.Inv ∧ faultOf (step s) = some (.uninitRead 0x3000)) ∧
    ((doing (.read 0x8000 32) idle).Inv ∧
      refusalOf (step (doing (.read 0x8000 32) idle)) = some .outsideWindow) ∧
    ({ doing (.read 0x4000 32) idle with rst := true }.Inv ∧
      refusalOf (step { doing (.read 0x4000 32) idle with rst := true }) = some .accessInReset) := by
  refine ⟨⟨inv_of_checks (by decide +kernel) trivial, ?_⟩, ⟨inv_of_checks (by decide +kernel) ?_, ?_⟩,
    ⟨inv_of_checks (by decide +kernel) trivial, ?_⟩, ⟨inv_of_checks (by decide +kernel) trivial, ?_⟩⟩
  case refine_2 => exact ⟨by decide, by decide, by decide⟩
  all_goals decide +kernel

theorem witness_UnansweredRequestWaits :
    waiting.request = some .randomWord ∧ 1 ≠ waiting.reqId ∧
      (inState (.kgPrimeP 0 100)).request = some (.nextPrime 100) := by decide

theorem witness_WithdrawnRequestNeverMatches :
    waiting.request.isSome = true ∧ (gives (exec .sreset waiting) fun _ => true) = true ∧
      (gives (step waiting) fun _ => true) = true ∧
      { waiting with rst := true }.rst = true ∧
      (gives (takeTurn .releaseReset { waiting with rst := true }) fun _ => true) = true := by
  decide +kernel

theorem witness_ProgressIndependentOfDraws :
    (gives (takeTurn (.randomAnswer 0 0) waiting) fun u => u.request == some (.nextPrime 0)) = true ∧
      (gives (takeTurn (.randomAnswer 0 7) waiting) fun u => u.request == some (.nextPrime 7)) = true := by
  decide +kernel

theorem witness_PollRepeatsWhileBusy :
    { waiting with host := [.poll] }.rst = false ∧ { waiting with host := [.poll] }.host = [.poll] ∧
      waiting.busy = true ∧ { idle with host := [.poll] }.host = [.poll] ∧ idle.busy = false := by
  decide

theorem witness_WriteBigWritesRegister :
    let s := { idle with host := Pseudo.expand idle.cfg (.wrBig .Q (2 ^ 96 - 1)) ++ [HostOp.poll] }
    s.Inv ∧ s.Ready ∧ BigName.Q.hostWritable = true ∧ 2 ^ 96 - 1 < 2 ^ s.cfg.bw ∧
      s.host = Pseudo.expand s.cfg (.wrBig .Q (2 ^ 96 - 1)) ++ [HostOp.poll] :=
  ⟨inv_of_checks (by decide +kernel) trivial, ⟨rfl, rfl⟩, rfl, by decide, rfl⟩

theorem witness_ParametersNeverChange : (gives (step idle) fun _ => true) = true := by decide +kernel

theorem witness_ResetMeetsInvariant : small.wf = true := by decide

theorem witness_EveryStepKeepsInvariant :
    waiting.Inv ∧ (gives (step { waiting with turns := [.randomAnswer 0 5] }) fun _ => true) = true :=
  ⟨witness_inv_waiting, by decide +kernel⟩

end Sys2Proof.Tests
end

section
/-!
The parameters of the block are fixed (spec/00_scope.md R5, R9, R10): one lemma for each kind of move
says that it keeps `cfg`, and every step is a sequence of moves.
-/

namespace Sys2Proof.Machine

theorem Quiet.cfg_eq {s t : State} (h : Quiet s t) : t.cfg = s.cfg := by
  unfold Quiet at h; rw [h]

@[simp] theorem startedState_cfg (i : Instr) (c : Ctrl) (s : State) :
    (startedState i c s).cfg = s.cfg := by
  unfold startedState; split <;> rfl

theorem exec_cfg {i : Instr} {s t : State} (h : exec i s = .next t) : t.cfg = s.cfg := by
  rcases exec_cases i s with ⟨_, he⟩ | ⟨_, _, he⟩ | ⟨_, _, he⟩ | ⟨_, _, he⟩ | ⟨_, _, _, he⟩ <;>
    cases he.symm.trans h <;> simp

@[simp] theorem writeLoc_cfg (s : State) (l : Loc) (v : Word) : (s.writeLoc l v).cfg = s.cfg := by
  rcases writeLoc_cases s l v with h | ⟨_, h | h | ⟨r, i, _, _, h⟩ | ⟨b, j, _, h⟩⟩
  · rw [h]
  · rw [h]
  · rw [h]
  · rw [h, setBig_cfg]
  · obtain ⟨m, hm, _⟩ := writeBufWord_spec s b j v
    rw [h, hm]

theorem writeHost_cfg {l : Loc} {v : Word} {s t : State} (h : writeHost l v s = .next t) :
    t.cfg = s.cfg := by
  rcases writeHost_cases h with ⟨_, he⟩ | ⟨_, rfl⟩
  · exact exec_cfg he
  · exact writeLoc_cfg s l v

theorem hostTurn_cfg {s t : State} (h : hostTurn s = .next t) : t.cfg = s.cfg := by
  rcases hostTurn_cases h with hq | ⟨_, _, _, _, s0, _, _, _, _, _, _, hq, _, hw⟩
  · exact hq.cfg_eq
  · exact (writeHost_cfg hw).trans hq.cfg_eq

theorem Move.cfg_eq {s t : State} (h : Move s t) : t.cfg = s.cfg := by
  cases h with
  | host h => exact hostTurn_cfg h
  | controller _ h => exact (controllerStep_keeps h).1.cfg
  | word w _ => exact (takeWord_keeps w _).1.cfg
  | prime e r _ => exact (takePrime_keeps e r _).1.cfg
  | assert => rfl
  | release _ => exact hardReset_cfg s
  | pending _ _ => rfl
  | plan _ => rfl

theorem Moves.cfg_eq {s t : State} (h : Moves s t) : t.cfg = s.cfg :=
  h.lift (R := fun s t => t.cfg = s.cfg) (fun _ => rfl) (fun _ _ _ hst htu => htu.trans hst)
    fun _ _ => Move.cfg_eq

/-- Settles O58: every step is a sequence of moves, and each move keeps the parameters. -/
theorem parametersNeverChange : Obligations.ParametersNeverChange :=
  fun _ _ h => (moves_of_step h).cfg_eq

end Sys2Proof.Machine
end

section
/-!
The Bezout identity of EGCD and the size of its coefficients (spec/40_egcd.md R130, R131), by induction
along the recursion of R130.
-/

namespace Sys2Proof.Machine

/-- EGCD gives a Bezout triple (R131). -/
theorem egcd_bezout (a b : Nat) :
    (a : Int) * (egcd a b).x + (b : Int) * (egcd a b).y = (egcd a b).g := by
  induction a, b using egcd_induction with
  | zero a => simp [egcd_zero]
  | step a b hb ih =>
    have hdiv : (a : Int) = b * (a / b : Nat) + (a % b : Nat) := by
      exact_mod_cast (Nat.div_add_mod a b).symm
    rw [egcd_step a hb, ← ih]
    linear_combination (egcd b (a % b)).y * hdiv

/-- A coefficient is at most the other argument, or 1. -/
theorem egcd_natAbs_le (a b : Nat) :
    (egcd a b).x.natAbs ≤ max 1 b ∧ (egcd a b).y.natAbs ≤ max 1 a := by
  induction a, b using egcd_induction with
  | zero a => simp [egcd_zero]
  | step a b hb ih =>
    obtain ⟨hx, hy⟩ := ih
    rw [egcd_step a hb]
    refine ⟨hy, ?_⟩
    by_cases hr : a % b = 0
    · simp [hr, egcd_zero]
    · have hsub := Int.natAbs_sub_le (egcd b (a % b)).x ((a / b : Nat) * (egcd b (a % b)).y)
      rw [Int.natAbs_mul, Int.natAbs_natCast] at hsub
      have hmul : a / b * (egcd b (a % b)).y.natAbs ≤ a / b * b := Nat.mul_le_mul_left _ (by omega)
      have hdiv := Nat.div_add_mod' a b
      dsimp only
      omega

end Sys2Proof.Machine
end

section
/-!
What the invariant needs of the parameters and of the codec: the ranges that follow from a legal K, and
the length of what DECODE writes (spec/00_scope.md R5-R7; spec/42_codec.md R210, R211).
-/

namespace Sys2Proof.Machine

/-- A legal K is a multiple of 64 from 64 to 4096. -/
theorem keyBits_of_wf {c : Config} (h : c.wf = true) : ∃ k, 1 ≤ k ∧ k ≤ 64 ∧ c.keyBits = 64 * k := by
  simp only [Config.wf, Config.keyBitsWhole, Config.keyBitsInRange, Bool.and_eq_true, beq_iff_eq,
    decide_eq_true_eq] at h
  exact ⟨c.keyBits / 64, by omega, by omega, by omega⟩

theorem candWords_pos {c : Config} (h : c.wf = true) : 0 < c.candWords := by
  obtain ⟨k, hk, -, hK⟩ := keyBits_of_wf h
  simp only [Config.candWords]; omega

/-- A candidate of K/64 words has K/2 bits (spec/41_keyderive.md R163). -/
theorem value_lt_of_candWords {c : Config} (h : c.wf = true) {ws : List Word}
    (hw : ws.length ≤ c.candWords) : BigReg.value ws < 2 ^ (c.keyBits / 2) := by
  obtain ⟨k, -, -, hK⟩ := keyBits_of_wf h
  refine (value_lt ws).trans_le (Nat.pow_le_pow_right (by omega) ?_)
  simp only [Config.candWords] at hw; omega

/-- The product of two prime answers in range fits N (spec/41_keyderive.md R169). -/
theorem mul_lt_of_primeBound {c : Config} (h : c.wf = true) {p q : Nat} (hp : p < c.primeBound)
    (hq : q < c.primeBound) : p * q < 2 ^ c.bw := by
  obtain ⟨k, -, -, hK⟩ := keyBits_of_wf h
  have hexp : c.keyBits / 2 + 1 + (c.keyBits / 2 + 1) ≤ c.bw := by simp only [Config.bw]; omega
  calc p * q < c.primeBound * c.primeBound := Nat.mul_lt_mul'' hp hq
    _ = 2 ^ (c.keyBits / 2 + 1 + (c.keyBits / 2 + 1)) := (Nat.pow_add ..).symm
    _ ≤ 2 ^ c.bw := Nat.pow_le_pow_right (by omega) hexp

/-- The totient fits PHI when the product fits N (spec/41_keyderive.md R170). -/
theorem totient_lt {c : Config} {p q : Nat} (h : p * q < 2 ^ c.bw) : totient c p q < 2 ^ c.bw := by
  have hpos : 1 < 2 ^ c.bw := Nat.one_lt_two_pow (by simp [Config.bw])
  simp only [totient]
  split
  · rcases p with _ | p
    · rcases q with _ | q
      · simpa using hpos
      · simp
    · rcases q with _ | q
      · simp
      · have hle : p * q ≤ (p + 1) * (q + 1) := Nat.mul_le_mul (by omega) (by omega)
        have hcast : ((p + 1 : Nat) - 1 : Int) * ((q + 1 : Nat) - 1) = (p * q : Nat) := by push_cast; ring
        rw [hcast, Int.toNat_natCast]; omega
  · exact Nat.mod_lt _ (by omega)

/-- The padded block of a message with its filler fills BLK exactly (spec/42_codec.md R200). -/
theorem length_paddedBlock_of_filler {c : Config} (h : c.wf = true) {filler msg : List Byte}
    (hm : msg.length ≤ c.lmax) (hf : filler.length = c.dcap - 9 - 3 * msg.length) :
    (paddedBlock filler msg).length = c.dcap := by
  obtain ⟨k, hk, -, hK⟩ := keyBits_of_wf h
  rw [length_paddedBlock]
  simp only [Config.lmax, Config.dcap] at *; omega

/-- A filler digit is a digit other than 0 (spec/42_codec.md R203). -/
theorem fillerDigit_spec (w : Word) : isDig (fillerDigit w) = true ∧ fillerDigit w ≠ chr 0 := by
  have hd : 1 + w.toNat % 9 < 10 := by omega
  refine ⟨(isDig_chr hd).1, fun h => ?_⟩
  have hdig := congrArg dig h
  rw [fillerDigit, (isDig_chr hd).2, (isDig_chr (by omega)).2] at hdig
  omega

theorem length_scanDigits {l : List (Option Byte)} {j : Nat} {ds : List Nat}
    (h : scanDigits j l = .digits ds) : ds.length = l.length := by
  induction l generalizing j ds with
  | nil => cases h; rfl
  | cons o l ih =>
    cases o with
    | none => cases h
    | some b =>
      simp only [scanDigits] at h
      split at h
      · split at h
        · cases h; simp [ih ‹_›]
        · rename_i hne; exact absurd h (hne ds)
      · cases h

theorem le_firstZero (i : Nat) (ds : List Nat) : i ≤ firstZero i ds := by
  induction ds generalizing i with
  | nil => exact Nat.le_refl i
  | cons d ds ih =>
    rw [firstZero]
    split
    · exact Nat.le_refl i
    · have := ih (i + 1); omega

/-- The groups give one byte for three digits, or the error CODE_RANGE. -/
theorem decodeGroups_spec (pos : Nat) (ds : List Nat) :
    match decodeGroups pos ds with
    | .ok out => 3 * out.length ≤ ds.length
    | .error e => e.1 = .codeRange := by
  induction pos, ds using decodeGroups.induct with
  | case1 pos a b c rest v hv => simp [decodeGroups, v, hv]
  | case2 pos a b c rest v hv out hout ih =>
    simp only [hout] at ih
    simp only [decodeGroups, v, hv, if_false, hout, List.length_cons] at ih ⊢
    omega
  | case3 pos a b c rest v hv e he ih =>
    simp only [he] at ih
    simp only [decodeGroups, v, hv, if_false, he, ih]
  | case4 pos ds hds => simp [decodeGroups]

/-- DECODE's message has at most (n − 9)/3 bytes (spec/42_codec.md R211). -/
theorem length_of_decodeDigits {ds : List Nat} {msg : List Byte} (h : decodeDigits ds = .ok msg) :
    9 + 3 * msg.length ≤ ds.length := by
  have hz := le_firstZero 6 (ds.drop 6)
  simp only [decodeDigits] at h
  split_ifs at h
  have hg := decodeGroups_spec (firstZero 6 (ds.drop 6) + 3) (ds.drop (firstZero 6 (ds.drop 6) + 3))
  rw [h, List.length_drop] at hg
  simp only at hg
  omega

/-- Every error of DECODE after the digit check is a MALFORMED_BLOCK (spec/60_exceptions.md Table T60.1). -/
theorem code_of_decodeDigits {ds : List Nat} {e : Malformed} (h : decodeDigits ds = .error e) :
    e.1.code = 3 := by
  simp only [decodeDigits] at h
  split_ifs at h
  case neg =>
    have hg := decodeGroups_spec (firstZero 6 (ds.drop 6) + 3) (ds.drop (firstZero 6 (ds.drop 6) + 3))
    rw [h] at hg
    exact congrArg ErrCause.code hg
  all_goals cases h; rfl

end Sys2Proof.Machine
end

section
/-!
The parts of the invariant under the shared operations of the machine: what each part reads, and what
acceptance, completion, an error and a reset leave of it (spec/10_state.md R24-R30, R52-R55;
spec/60_exceptions.md R260-R262).
-/

namespace Sys2Proof.Machine

/-! ## Parts of the invariant -/

/-- No error is recorded, and the outcome fields are 0 (spec/10_state.md R30, R36). -/
def State.NoError (s : State) : Prop :=
  s.err = false ∧ s.errCode = 0 ∧ s.subcause = 0 ∧ s.errPos = 0

/-- A controller state other than IDLE makes the block busy (R26). -/
theorem busy_of_ctrl {s : State} {c : Ctrl} (hk : s.ctrl = c) (hc : c ≠ .idle) : s.busy = true :=
  (busy_eq_true_iff s).mpr (hk ▸ hc)

/-- While a command executes no outcome is recorded (spec/10_state.md R55). -/
theorem State.FlagsOk.noError_of_busy {s : State} (h : s.FlagsOk) (hb : s.busy = true) :
    s.done = false ∧ s.NoError := by
  obtain ⟨hd, he⟩ := h.busyClear hb
  exact ⟨hd, he, h.noErr he⟩

/-- The status fields of a state without an error agree when DONE is 0 while a command executes, and
LAST_OP and KEYVALID fit that command. -/
theorem flagsOk_of_noError {s : State} (h : s.NoError) (hd : s.busy = true → s.done = false)
    (hl : ∀ i, s.ctrl.command = some i → s.lastOp = i.op)
    (hk : s.ctrl.command = some .keygen ∨ s.ctrl.command = some .derive → s.keyValid = false) :
    s.FlagsOk := by
  obtain ⟨herr, hcode, hsub, hpos⟩ := h
  exact
    { notBoth := by simp [herr]
      noErr := fun _ => ⟨hcode, hsub, hpos⟩
      legal := fun he => by simp [herr] at he
      position := fun hp => absurd hpos hp
      busyClear := fun hb => ⟨hd hb, herr⟩
      lastOp := hl
      noKey := hk }

theorem latchesOk_of_idle {s : State} (h : s.ctrl = .idle) : s.LatchesOk := by
  unfold State.LatchesOk
  rw [h]
  trivial

theorem State.WidthsOk.setBig {s : State} (h : s.WidthsOk) (r : BigName) {v : BigReg}
    (hv : v.length = s.cfg.nw) : (s.setBig r v).WidthsOk := by
  intro r'
  rw [getBig_setBig, setBig_cfg]
  split
  · exact hv
  · exact h r'

/-- Bytes written at the start of a buffer that has room for them. -/
theorem State.MemOk.writeBuf {s : State} (h : s.MemOk) {b : Buf} {bs : List Byte}
    (hl : bs.length ≤ b.size s.cfg) : (s.writeBuf b bs).MemOk where
  wf := Memory.wf_writeBytes bs b.offset h.wf
  inside c hc := by
    rcases Memory.mem_writeBytes hc with ⟨h1, h2⟩ | hc
    · exact ⟨b, c.1 - b.offset, show _ < b.size s.cfg by omega, by omega⟩
    · exact h.inside c hc

/-! ## The whole invariant -/

/-- The two states differ only in fields that the invariant does not read. -/
def DifferUnread (s t : State) : Prop :=
  t = { s with
    rej := t.rej, wign := t.wign, busErr := t.busErr, doneIE := t.doneIE, errIE := t.errIE
    doneIP := t.doneIP, errIP := t.errIP, blkLen := t.blkLen, iterCnt := t.iterCnt
    retryCnt := t.retryCnt, rst := t.rst, host := t.host, turns := t.turns, trace := t.trace
    reqId := t.reqId, draws := t.draws }

theorem Quiet.differUnread {s t : State} (h : Quiet s t) : DifferUnread s t := by
  unfold Quiet at h; rw [h]; rfl

theorem DifferUnread.inv {s t : State} (h : DifferUnread s t) (hs : s.Inv) : t.Inv := by
  obtain ⟨hc, hw, ⟨hwf, hin⟩, ⟨hf1, hf2, hf3, hf4, hf5, hf6, hf7⟩, hl⟩ := hs
  rw [h]
  exact ⟨hc, hw, ⟨hwf, hin⟩, ⟨hf1, hf2, hf3, hf4, hf5, hf6, hf7⟩, hl⟩

/-- A write of a whole register keeps the invariant. -/
theorem State.Inv.setBig {s : State} (h : s.Inv) (r : BigName) {v : BigReg}
    (hv : v.length = s.cfg.nw) : (s.setBig r v).Inv := by
  have hw := h.widths.setBig r hv
  obtain ⟨hc, -, ⟨hwf, hin⟩, ⟨hf1, hf2, hf3, hf4, hf5, hf6, hf7⟩, hl⟩ := h
  cases r <;> exact ⟨hc, hw, ⟨hwf, hin⟩, ⟨hf1, hf2, hf3, hf4, hf5, hf6, hf7⟩, hl⟩

/-- The executing command goes on in another controller state. -/
theorem State.Inv.withCtrl {s : State} {c₀ c : Ctrl} (h : s.Inv) (hb : s.busy = true)
    (hk : s.ctrl = c₀) (hc : c.command = c₀.command) (hl : ({ s with ctrl := c } : State).LatchesOk) :
    ({ s with ctrl := c } : State).Inv := by
  subst hk
  obtain ⟨hd, he⟩ := h.flags.noError_of_busy hb
  refine ⟨h.cfg, h.widths, ⟨h.mem.wf, h.mem.inside⟩, ?_, hl⟩
  exact flagsOk_of_noError he (fun _ => hd) (fun i hi => h.flags.lastOp i (hc ▸ hi))
    fun hk => h.flags.noKey (hc ▸ hk)

/-- Success completion of a state without an error, whose results are in range. -/
theorem inv_complete {s : State} (hc : s.cfg.wf = true) (hw : s.WidthsOk) (hm : s.MemOk)
    (he : s.NoError) : (complete s).Inv where
  cfg := hc
  widths := hw
  mem := ⟨hm.wf, hm.inside⟩
  flags := flagsOk_of_noError he (fun hb => by simp [State.busy] at hb) (fun i hi => by simp [Ctrl.command] at hi)
    (fun hk => by simp [Ctrl.command] at hk)
  latches := latchesOk_of_idle rfl

/-- Error completion with DONE 0, at position 0 or with the code of a DECODE error. -/
theorem inv_raiseErr {s : State} {c : ErrCause} {pos : Nat} (h : s.Inv) (hd : s.done = false)
    (hp : pos = 0 ∨ c.code = 3) : (raiseErr c pos s).Inv where
  cfg := h.cfg
  widths := h.widths
  mem := ⟨h.mem.wf, h.mem.inside⟩
  flags :=
    { notBoth := by simp [hd]
      noErr := by simp
      legal := fun _ => ⟨c, rfl, rfl⟩
      position := fun h => hp.resolve_left (by rintro rfl; simp at h)
      busyClear := fun hb => by simp [State.busy] at hb
      lastOp := fun i hi => by simp [Ctrl.command] at hi
      noKey := fun hk => by simp [Ctrl.command] at hk }
  latches := latchesOk_of_idle rfl

theorem State.Inv.raiseErr_of_busy {s : State} {c : ErrCause} {pos : Nat} (h : s.Inv)
    (hb : s.busy = true) (hp : pos = 0 ∨ c.code = 3) : (raiseErr c pos s).Inv :=
  inv_raiseErr h (h.flags.noError_of_busy hb).1 hp

/-! ## Reset -/

theorem widthsOk_resetOf (c : Config) : (State.resetOf c).WidthsOk := fun r => by
  cases r <;> simp [State.getBig, State.resetOf]

/-- The reset values meet the invariant, with any memory that is in form. -/
theorem inv_of_reset {s : State} {m : Memory} (hc : s.cfg.wf = true) (hwf : m.wf)
    (hin : ∀ c ∈ m, IsBufferByte s.cfg c.1) : ({ s.resetRegs with mem := m } : State).Inv where
  cfg := hc
  widths := widthsOk_resetOf s.cfg
  mem := ⟨hwf, hin⟩
  flags := flagsOk_of_noError ⟨rfl, rfl, rfl, rfl⟩ (fun _ => rfl) (fun i hi => by cases hi) fun _ => rfl
  latches := latchesOk_of_idle rfl

/-- SRESET only clears written marks. -/
theorem State.MemOk.abortedMem {s : State} (h : s.MemOk) :
    s.abortedMem.wf ∧ ∀ c ∈ s.abortedMem, IsBufferByte s.cfg c.1 := by
  unfold State.abortedMem
  split
  · exact ⟨Memory.wf_erase _ _ h.wf, fun c hc => h.inside c (Memory.mem_of_mem_erase hc)⟩
  · exact ⟨Memory.wf_erase _ _ h.wf, fun c hc => h.inside c (Memory.mem_of_mem_erase hc)⟩
  · exact ⟨h.wf, h.inside⟩

theorem State.Inv.softReset {s : State} (h : s.Inv) : s.softReset.Inv :=
  inv_of_reset h.cfg h.mem.abortedMem.1 h.mem.abortedMem.2

theorem inv_hardReset {s : State} (h : s.cfg.wf = true) : s.hardReset.Inv :=
  inv_of_reset h List.Pairwise.nil (by simp)

theorem inv_resetOf {c : Config} (h : c.wf = true) : (State.resetOf c).Inv :=
  have hd : DifferUnread (State.resetOf c).hardReset (State.resetOf c) := rfl
  hd.inv (inv_hardReset h)

/-- Settles O59: the reset values meet each part of the invariant. -/
theorem resetMeetsInvariant : Obligations.ResetMeetsInvariant :=
  ⟨inv_resetOf (by decide), fun _ => inv_resetOf⟩

end Sys2Proof.Machine
end

section
/-!
Every step keeps the invariant: one lemma for each controller step, each answer of a service and each
move of the host (spec/10_state.md Table T10.4; spec/20_memory.md R83).
-/

namespace Sys2Proof.Machine

/-! ## EGCD -/

theorem inv_egcdRun {s : State} (h : s.Inv) (hb : s.busy = true) : (egcdRun s).Inv := by
  simp only [egcdRun]
  split
  · refine inv_complete h.cfg (fun r => ?_) ⟨h.mem.wf, h.mem.inside⟩ (h.flags.noError_of_busy hb).2
    have hr := h.widths r
    cases r <;> simp_all [State.getBig, State.reg]
  · exact h.raiseErr_of_busy hb (.inl rfl)

/-! ## KEYGEN and DERIVE -/

theorem inv_drawP {s : State} {r : Nat} {ws : List Word} (w : Word) (h : s.Inv)
    (hk : s.ctrl = .kgDrawP r ws) : (drawP r ws w s).Inv := by
  have hb := busy_of_ctrl hk nofun
  have hl : ws.length < s.cfg.candWords := by simpa [State.LatchesOk, hk] using h.latches
  simp only [drawP]
  split
  · refine h.withCtrl hb hk rfl (value_lt_of_candWords h.cfg ?_)
    simpa using hl
  · exact h.withCtrl hb hk rfl (Nat.lt_of_not_le ‹_›)

theorem inv_drawQ {s : State} {r p : Nat} {ws : List Word} (w : Word) (h : s.Inv)
    (hk : s.ctrl = .kgDrawQ r p ws) : (drawQ r p ws w s).Inv := by
  have hb := busy_of_ctrl hk nofun
  have hl : p < s.cfg.primeBound ∧ ws.length < s.cfg.candWords := by
    simpa [State.LatchesOk, hk] using h.latches
  simp only [drawQ]
  split
  · refine h.withCtrl hb hk rfl ⟨hl.1, value_lt_of_candWords h.cfg ?_⟩
    simpa using hl.2
  · exact h.withCtrl hb hk rfl ⟨hl.1, Nat.lt_of_not_le ‹_›⟩

/-- A prime answer that passes the checks is in range (spec/41_keyderive.md R164). -/
theorem lt_primeBound_of_checkPrime {c : Config} {e : Bool} {r cand : Nat}
    (h : checkPrime c e r cand = none) : r < c.primeBound := by
  unfold checkPrime at h
  split_ifs at h
  exact Nat.lt_of_not_le ‹_›

theorem inv_primeP {s : State} {r cand : Nat} (e : Bool) (p : Nat) (h : s.Inv)
    (hk : s.ctrl = .kgPrimeP r cand) : (primeP r cand e p s).Inv := by
  have hb := busy_of_ctrl hk nofun
  unfold primeP
  split
  · exact h.raiseErr_of_busy hb (.inl rfl)
  · exact (h.setBig .P (length_wordsOf ..)).withCtrl hb hk rfl
      ⟨lt_primeBound_of_checkPrime ‹_›, candWords_pos h.cfg⟩

theorem inv_primeQ {s : State} {r p cand : Nat} (e : Bool) (q : Nat) (h : s.Inv)
    (hk : s.ctrl = .kgPrimeQ r p cand) : (primeQ r p cand e q s).Inv := by
  have hb := busy_of_ctrl hk nofun
  have hl : p < s.cfg.primeBound ∧ cand < 2 ^ (s.cfg.keyBits / 2) := by
    simpa [State.LatchesOk, hk] using h.latches
  unfold primeQ
  split
  · exact h.raiseErr_of_busy hb (.inl rfl)
  · exact (h.setBig .Q (length_wordsOf ..)).withCtrl hb hk rfl
      (mul_lt_of_primeBound h.cfg hl.1 (lt_primeBound_of_checkPrime ‹_›))

theorem inv_derivCheck {s : State} (h : s.Inv) (hk : s.ctrl = .dvCheck) : (derivCheck s).Inv := by
  have hb := busy_of_ctrl hk nofun
  simp only [derivCheck]
  split_ifs with hp hq hn
  · exact h.raiseErr_of_busy hb (.inl rfl)
  · exact h.raiseErr_of_busy hb (.inl rfl)
  · exact h.raiseErr_of_busy hb (.inl rfl)
  · exact h.withCtrl hb hk rfl (Nat.lt_of_not_le hn)

theorem inv_keyArith {s : State} {cmd : KeyCmd} {p q : Nat} (h : s.Inv)
    (hk : s.ctrl = .kgArith cmd p q) : (keyArith cmd p q s).Inv := by
  have hb := busy_of_ctrl hk nofun
  have hl : p * q < 2 ^ s.cfg.bw := by simpa [State.LatchesOk, hk] using h.latches
  exact (h.setBig .PHI (length_wordsOf ..)).withCtrl hb hk rfl
    ⟨hl, totient_lt hl⟩

theorem inv_keyEgcd {s : State} {cmd : KeyCmd} {n phi : Nat} (h : s.Inv)
    (hk : s.ctrl = .kgEgcd cmd n phi) : (keyEgcd cmd n phi s).Inv := by
  have hb := busy_of_ctrl hk nofun
  have hl : n < 2 ^ s.cfg.bw ∧ phi < 2 ^ s.cfg.bw := by
    simpa [State.LatchesOk, hk] using h.latches
  have hd : DifferUnread s { s with iterCnt := BitVec.ofNat 32 (egcd phi ePub).n } := rfl
  exact (hd.inv h).withCtrl hb hk rfl ⟨hl.1, hl.2, rfl⟩

/-- For a totient coprime to E_PUB the coefficient y is at most φ in size, and 65537·y ≡ 1 modulo φ
(spec/41_keyderive.md R172, R174). -/
theorem egcd_ePub_range {phi : Nat} (hg : (egcd phi ePub).g = 1) :
    -(phi : Int) ≤ (egcd phi ePub).y ∧ (egcd phi ePub).y ≤ phi ∧
      ((ePub : Int) * (egcd phi ePub).y - 1) % phi = 0 := by
  have hphi : phi ≠ 0 := by rintro rfl; exact absurd hg (by decide)
  have hy := (egcd_natAbs_le phi ePub).2
  have hbez := egcd_bezout phi ePub
  rw [hg] at hbez
  refine ⟨by omega, by omega, Int.emod_eq_zero_of_dvd ⟨-(egcd phi ePub).x, ?_⟩⟩
  push_cast at hbez
  linear_combination hbez

theorem inv_keyCheck {s : State} {cmd : KeyCmd} {n phi : Nat} {t : Bezout} (h : s.Inv)
    (hk : s.ctrl = .kgCheck cmd n phi t) : (keyCheck cmd n phi t s).Inv := by
  have hb := busy_of_ctrl hk nofun
  have hl : n < 2 ^ s.cfg.bw ∧ phi < 2 ^ s.cfg.bw ∧ t = egcd phi ePub := by
    simpa [State.LatchesOk, hk] using h.latches
  obtain ⟨hn, hphi, rfl⟩ := hl
  unfold keyCheck
  split
  · exact h.withCtrl hb hk rfl ⟨hn, hphi, egcd_ePub_range ‹_›⟩
  · cases cmd with
    | derive => exact h.raiseErr_of_busy hb (.inl rfl)
    | keygen r =>
      dsimp only
      split
      · exact h.raiseErr_of_busy hb (.inl rfl)
      · have hd : DifferUnread s
            { s with retryCnt := BitVec.ofNat 32 (min (r + 1) 0xFFFFFFFF) } := rfl
        exact (hd.inv h).withCtrl hb hk rfl (candWords_pos h.cfg)

theorem inv_keyNorm {s : State} {cmd : KeyCmd} {n phi : Nat} {d : Int} (h : s.Inv)
    (hk : s.ctrl = .kgNorm cmd n phi d) : (keyNorm cmd n phi d s).Inv := by
  have hb := busy_of_ctrl hk nofun
  have hl : n < 2 ^ s.cfg.bw ∧ phi < 2 ^ s.cfg.bw ∧ -(phi : Int) ≤ d ∧ d ≤ phi ∧
      ((ePub : Int) * d - 1) % phi = 0 := by
    simpa only [State.LatchesOk, hk] using h.latches
  obtain ⟨hn, hphi, hlo, hhi, hmod⟩ := hl
  unfold keyNorm
  split
  · refine h.withCtrl hb hk rfl ⟨hn, hphi, by omega, by omega, ?_⟩
    have hadd : (ePub : Int) * (d + phi) - 1 = (ePub * d - 1) + ePub * phi := by ring
    rw [hadd, Int.add_mul_emod_self_right, hmod]
  · exact h.withCtrl hb hk rfl ⟨hn, by show d.toNat < 2 ^ s.cfg.bw; omega⟩

theorem inv_keyCommit {s : State} (n d : Nat) (h : s.Inv) (hb : s.busy = true) :
    (keyCommit n d s).Inv := by
  refine inv_complete h.cfg (fun r => ?_) ⟨h.mem.wf, h.mem.inside⟩ (h.flags.noError_of_busy hb).2
  have hr := h.widths r
  cases r <;> simp_all [State.getBig, State.reg]

/-! ## ENCODE and DECODE -/

theorem inv_encodeCheck {s : State} (h : s.Inv) (hk : s.ctrl = .enRun none) : (encodeCheck s).Inv := by
  have hb := busy_of_ctrl hk nofun
  unfold encodeCheck
  split
  · exact h.raiseErr_of_busy hb (.inl rfl)
  · exact h.withCtrl hb hk rfl ⟨Nat.le_of_not_lt ‹_›, Nat.zero_le _, by simp⟩

theorem inv_encodeDraw {s : State} {filler : List Byte} (w : Word) (h : s.Inv)
    (hk : s.ctrl = .enRun (some filler)) (hf : filler.length < s.fillerLen) :
    (encodeDraw filler w s).Inv := by
  have hb := busy_of_ctrl hk nofun
  have hl : s.msgLen.toNat ≤ s.cfg.lmax ∧ filler.length ≤ s.fillerLen ∧
      ∀ b ∈ filler, isDig b = true ∧ b ≠ chr 0 := by
    simpa only [State.LatchesOk, hk] using h.latches
  obtain ⟨hm, -, hdig⟩ := hl
  refine h.withCtrl hb hk rfl ⟨hm, ?_, fun b hbm => ?_⟩
  · show (filler ++ [fillerDigit w]).length ≤ s.fillerLen
    simpa using hf
  · rcases List.mem_append.mp hbm with hbm | hbm
    · exact hdig b hbm
    · rw [List.mem_singleton.mp hbm]; exact fillerDigit_spec w

theorem inv_encodeFinish {s t : State} {filler : List Byte} (h : s.Inv)
    (hk : s.ctrl = .enRun (some filler)) (hf : ¬filler.length < s.fillerLen)
    (ht : encodeFinish filler s = .next t) : t.Inv := by
  have hb := busy_of_ctrl hk nofun
  have hl : s.msgLen.toNat ≤ s.cfg.lmax ∧ filler.length ≤ s.fillerLen ∧
      ∀ b ∈ filler, isDig b = true ∧ b ≠ chr 0 := by
    simpa only [State.LatchesOk, hk] using h.latches
  unfold encodeFinish at ht
  split at ht
  · cases ht
  · rename_i msg hmsg
    cases ht
    have hlen : msg.length = s.msgLen.toNat := by
      have hread := congrArg List.length ((commandRead_ok_iff _ _ _).mp hmsg)
      rw [State.bufBytes, Memory.length_readBytes, List.length_map] at hread
      exact hread.symm
    have hblock : (paddedBlock filler msg).length = s.cfg.dcap := by
      apply length_paddedBlock_of_filler h.cfg
      · omega
      · simp only [State.fillerLen] at hl hf; omega
    generalize paddedBlock filler msg = block at hblock ⊢
    have hm : (s.writeBuf .blk block).MemOk := h.mem.writeBuf hblock.le
    exact inv_complete h.cfg h.widths ⟨hm.wf, hm.inside⟩ (h.flags.noError_of_busy hb).2

theorem inv_decodeRun {s t : State} (h : s.Inv) (hk : s.ctrl = .deRun)
    (ht : decodeRun s = .next t) : t.Inv := by
  have hb := busy_of_ctrl hk nofun
  simp only [decodeRun] at ht
  split at ht
  · cases ht; exact h.raiseErr_of_busy hb (.inl rfl)
  · rename_i hn
    split at ht
    · cases ht
    · cases ht; exact h.raiseErr_of_busy hb (.inr rfl)
    · rename_i ds hds
      split at ht
      · rename_i hdec
        cases ht; exact h.raiseErr_of_busy hb (.inr (code_of_decodeDigits hdec))
      · rename_i msg hdec
        cases ht
        have hlen := length_scanDigits hds
        rw [State.bufBytes, Memory.length_readBytes] at hlen
        have hout := length_of_decodeDigits hdec
        have hroom : msg.length ≤ Buf.msg.size s.cfg := by
          simp only [Buf.size, Config.lmax]; omega
        have hm : (s.writeBuf .msg msg).MemOk := h.mem.writeBuf hroom
        exact inv_complete h.cfg h.widths ⟨hm.wf, hm.inside⟩ (h.flags.noError_of_busy hb).2

/-! ## The agents -/

theorem inv_controllerStep {s t : State} (h : s.Inv) (ht : controllerStep s = .next t) : t.Inv := by
  unfold controllerStep at ht
  split at ht
  case h_2 hk => cases ht; exact inv_egcdRun h (busy_of_ctrl hk nofun)
  case h_7 hk => cases ht; exact inv_derivCheck h hk
  case h_8 hk => cases ht; exact inv_keyArith h hk
  case h_9 hk => cases ht; exact inv_keyEgcd h hk
  case h_10 hk => cases ht; exact inv_keyCheck h hk
  case h_11 hk => cases ht; exact inv_keyNorm h hk
  case h_12 hk => cases ht; exact inv_keyCommit _ _ h (busy_of_ctrl hk nofun)
  case h_13 hk => cases ht; exact inv_encodeCheck h hk
  case h_14 hk =>
    split at ht
    · cases ht; exact h
    · exact inv_encodeFinish h hk ‹_› ht
  case h_15 hk => exact inv_decodeRun h hk ht
  all_goals cases ht; exact h

theorem inv_takeWord {s : State} (w : Word) (h : s.Inv) (hr : s.request.isSome = true) :
    (takeWord w s).Inv := by
  unfold takeWord
  split
  case h_1 hk => exact inv_drawP w h hk
  case h_2 hk => exact inv_drawQ w h hk
  case h_3 filler hk =>
    refine inv_encodeDraw w h hk ?_
    by_contra hf
    simp [State.request, hk, hf] at hr
  case h_4 => exact h

theorem inv_takePrime {s : State} (e : Bool) (r : Nat) (h : s.Inv) : (takePrime e r s).Inv := by
  unfold takePrime
  split
  case h_1 hk => exact inv_primeP e _ h hk
  case h_2 hk => exact inv_primeQ e _ h hk
  case h_3 => exact h

/-! ## The host -/

/-- Acceptance by an idle block clears the outcome fields and keeps the rest. -/
theorem inv_accept {s : State} (i : Instr) (h : s.Inv) (hk : s.ctrl = .idle) : (s.accept i).Inv where
  cfg := h.cfg
  widths := h.widths
  mem := ⟨h.mem.wf, h.mem.inside⟩
  flags := flagsOk_of_noError ⟨rfl, rfl, rfl, rfl⟩ (fun _ => rfl) (by simp [hk, Ctrl.command])
    (by simp [hk, Ctrl.command])
  latches := latchesOk_of_idle hk

/-- A command starts in its first state, with no word drawn and its own OP in LAST_OP. -/
theorem inv_startedState {s : State} {i : Instr} {c : Ctrl} (h : s.Inv)
    (hc : firstState i = some c) : (startedState i c s).Inv := by
  have hpos : ([] : List Word).length < s.cfg.candWords := candWords_pos h.cfg
  obtain ⟨hcfg, hw, ⟨hwf, hin⟩, -, -⟩ := h
  cases i <;> cases hc <;>
    exact ⟨hcfg, hw, ⟨hwf, hin⟩,
      flagsOk_of_noError ⟨rfl, rfl, rfl, rfl⟩ (fun _ => rfl) (fun i hi => by cases hi; rfl)
        (by simp [startedState, Ctrl.command]), by trivial⟩

theorem inv_exec {s t : State} {i : Instr} (h : s.Inv) (ht : exec i s = .next t) : t.Inv := by
  rcases exec_cases i s with ⟨-, he⟩ | ⟨-, -, he⟩ | ⟨-, -, he⟩ | ⟨-, hb, he⟩ | ⟨c, hc, -, he⟩ <;>
    cases he.symm.trans ht
  · exact h.softReset
  · exact DifferUnread.inv rfl h
  · exact h
  · exact inv_raiseErr (inv_accept i h ((busy_eq_false_iff s).mp hb)) rfl (.inl rfl)
  · exact inv_startedState h hc

/-- A new MSG_LEN of an idle block. -/
theorem inv_withMsgLen {s : State} (n : BitVec 16) (h : s.Inv) (hk : s.ctrl = .idle) :
    ({ s with msgLen := n } : State).Inv := by
  obtain ⟨hc, hw, ⟨hwf, hin⟩, ⟨hf1, hf2, hf3, hf4, hf5, hf6, hf7⟩, -⟩ := h
  exact ⟨hc, hw, ⟨hwf, hin⟩, ⟨hf1, hf2, hf3, hf4, hf5, hf6, hf7⟩, latchesOk_of_idle hk⟩

theorem inv_writeBufWord {s : State} (b : Buf) (j : Nat) (v : Word) (h : s.Inv) :
    (s.writeBufWord b j v).Inv := by
  obtain ⟨m, hm, hwf', hin'⟩ := writeBufWord_spec s b j v
  obtain ⟨hc, hw, ⟨hwf, hin⟩, ⟨hf1, hf2, hf3, hf4, hf5, hf6, hf7⟩, hl⟩ := h
  rw [hm]
  refine ⟨hc, hw, ⟨hwf' hwf, fun c hcm => ?_⟩, ⟨hf1, hf2, hf3, hf4, hf5, hf6, hf7⟩, hl⟩
  rcases hin' c hcm with hcm | ⟨i, hi, ha⟩
  · exact hin c hcm
  · exact ⟨b, i, hi, ha⟩

theorem inv_writeLoc {s : State} (l : Loc) (v : Word) (h : s.Inv) : (s.writeLoc l v).Inv := by
  rcases writeLoc_cases s l v with he | ⟨hb, he | he | ⟨r, i, -, -, he⟩ | ⟨b, j, -, he⟩⟩
  · have hd : DifferUnread s (s.writeLoc l v) := by rw [he]; rfl
    exact hd.inv h
  · rw [he]; exact inv_withMsgLen _ h ((busy_eq_false_iff s).mp hb)
  · rw [he]; exact DifferUnread.inv rfl h
  · rw [he]; exact h.setBig r (by rw [List.length_set]; exact h.widths r)
  · rw [he]; exact inv_writeBufWord b j v h

theorem inv_hostTurn {s t : State} (h : s.Inv) (ht : hostTurn s = .next t) : t.Inv := by
  rcases hostTurn_cases ht with hq | ⟨_, l, v, _, s0, _, _, _, _, _, _, hq, _, hw⟩
  · exact hq.differUnread.inv h
  · have h0 : s0.Inv := hq.differUnread.inv h
    rcases writeHost_cases hw with ⟨_, he⟩ | ⟨_, rfl⟩
    · exact inv_exec h0 he
    · exact inv_writeLoc l v h0

/-! ## One step -/

theorem Move.inv {s t : State} (h : s.Inv) (m : Move s t) : t.Inv := by
  cases m with
  | host ht => exact inv_hostTurn h ht
  | controller _ ht => exact inv_controllerStep h ht
  | word w hr =>
    exact inv_takeWord w (DifferUnread.inv (t := { s with reqId := s.reqId + 1 }) rfl h) hr
  | prime e r _ =>
    exact inv_takePrime e r (DifferUnread.inv (t := { s with reqId := s.reqId + 1 }) rfl h)
  | assert => exact DifferUnread.inv rfl h
  | release _ =>
    exact DifferUnread.inv (t := { s.hardReset with rst := false }) rfl (inv_hardReset h.cfg)
  | pending _ _ => exact DifferUnread.inv rfl h
  | plan _ => exact DifferUnread.inv rfl h

/-- Settles O60: every step is a sequence of moves, and each move keeps the invariant. -/
theorem everyStepKeepsInvariant : Obligations.EveryStepKeepsInvariant :=
  fun _ _ hs h => (moves_of_step h).keeps (fun _ _ => Move.inv) hs

end Sys2Proof.Machine
end

section
/-!
What the host reads: the registers that are no command's destination, and the bits of the register words
(spec/10_state.md R22-R38, Table T10.2; spec/70_reset_and_hazards.md R312).
-/

namespace Sys2Proof.Machine

/-! ## Destinations -/

theorem isDestination_of_idle {s : State} (h : s.busy = false) (l : Loc) : s.isDestination l = false := by
  simp [State.isDestination, (busy_eq_false_iff s).mp h, Ctrl.command]

/-- A location that no command writes is never a destination. -/
theorem isDestination_of_unwritten {l : Loc} (h : ∀ i, writesLoc i l = false) (s : State) :
    s.isDestination l = false := by
  unfold State.isDestination
  split
  · exact h _
  · rfl

/-- The control registers that no command writes (R312). -/
theorem isDestination_control {l : Loc}
    (h : l ∈ [.id, .param, .cmd, .status, .irqEn, .irqStat, .errPos]) (s : State) :
    s.isDestination l = false := by
  refine isDestination_of_unwritten (fun i => ?_) s
  simp only [List.mem_cons, List.not_mem_nil, or_false] at h
  rcases h with rfl | rfl | rfl | rfl | rfl | rfl | rfl <;> cases i <;> rfl

theorem isDestination_E (s : State) (i : Nat) : s.isDestination (.big .E i) = false :=
  isDestination_of_unwritten (fun j => by cases j <;> rfl) s

theorem readLoc_control {l : Loc} (h : l ∈ [.id, .param, .cmd, .status, .irqEn, .irqStat, .errPos])
    (s : State) : s.readLoc l = s.control l := by
  have hd := isDestination_control h s
  simp only [List.mem_cons, List.not_mem_nil, or_false] at h
  rcases h with rfl | rfl | rfl | rfl | rfl | rfl | rfl <;> simp [State.readLoc, hd]

@[simp] theorem readLoc_id (s : State) : s.readLoc .id = idWord := readLoc_control (by simp) s
@[simp] theorem readLoc_param (s : State) : s.readLoc .param = paramWord s.cfg :=
  readLoc_control (by simp) s
@[simp] theorem readLoc_cmd (s : State) : s.readLoc .cmd = s.lastOp.setWidth 32 :=
  readLoc_control (by simp) s
@[simp] theorem readLoc_status (s : State) : s.readLoc .status = s.statusWord :=
  readLoc_control (by simp) s
@[simp] theorem readLoc_irqEn (s : State) :
    s.readLoc .irqEn = 0#30 ++ bit s.errIE ++ bit s.doneIE := readLoc_control (by simp) s
@[simp] theorem readLoc_irqStat (s : State) :
    s.readLoc .irqStat = 0#30 ++ bit s.errIP ++ bit s.doneIP := readLoc_control (by simp) s

/-! ## Bits -/

@[simp] theorem getLsbD_bit (b : Bool) (j : Nat) : (bit b).getLsbD j = (decide (j = 0) && b) := by
  simp [bit, BitVec.getLsbD_ofBool]

/-- The word of an interrupt register: two bits, the others 0 (R32, R33). -/
theorem getLsbD_irqWord (a b : Bool) (j : Nat) :
    (0#30 ++ bit a ++ bit b : Word).getLsbD j = ((decide (j = 0) && b) || (decide (j = 1) && a)) := by
  have h : (0#30 ++ bit a ++ bit b : Word).getLsbD j =
      if j < 1 then (bit b).getLsbD j else if j - 1 < 1 then (bit a).getLsbD (j - 1)
        else (0#30).getLsbD (j - 1 - 1) :=
    BitVec.getLsbD_append.trans (by rw [BitVec.getLsbD_append])
  rw [h]
  rcases j with _ | _ | j <;> simp [-BitVec.getLsbD_eq_getElem]

/-- The bits of STATUS (Table T10.2). -/
theorem getLsbD_statusWord (s : State) {j : Nat} (h : j < 32) :
    s.statusWord.getLsbD j =
      if j = 0 then s.busy else if j = 1 then s.done else if j = 2 then s.err
      else if j = 3 then s.keyValid else if j < 8 then s.errCode.getLsbD (j - 4)
      else if j < 12 then s.subcause.getLsbD (j - 8) else if j = 12 then s.rej
      else if j = 13 then s.wign else if j = 14 then s.busErr else false := by
  show (0#17 ++ bit s.busErr ++ bit s.wign ++ bit s.rej ++ s.subcause ++ s.errCode
    ++ bit s.keyValid ++ bit s.err ++ bit s.done ++ bit s.busy).getLsbD j = _
  simp only [BitVec.getLsbD_append, BitVec.getLsbD_zero, getLsbD_bit]
  interval_cases j <;> rfl

/-- The byte in a lane of a word that is made of four (spec/20_memory.md R72). -/
theorem extractLsb'_wordOfLanes (b : Nat → Byte) {lane : Nat} (h : lane < 4) :
    (wordOfLanes (b 0) (b 1) (b 2) (b 3)).extractLsb' (8 * lane) 8 = b lane := by
  apply BitVec.eq_of_getLsbD_eq
  intro j hj
  have happ : ∀ i, (wordOfLanes (b 0) (b 1) (b 2) (b 3)).getLsbD i =
      (b 3 ++ b 2 ++ b 1 ++ b 0).getLsbD i := fun _ => rfl
  rw [BitVec.getLsbD_extractLsb', happ]
  simp only [BitVec.getLsbD_append]
  interval_cases lane <;> interval_cases j <;> rfl

/-- Word `i` of E (spec/10_state.md R47). -/
theorem getD_wordsOf_ePub (k i : Nat) :
    (wordsOf (k + 1) ePub).getD i 0 = if i = 0 then 0x00010001#32 else 0#32 := by
  rcases i with _ | i
  · rfl
  · rw [wordsOf, List.getD_cons_succ, show ePub / 2 ^ 32 = 0 by decide, wordsOf_zero]
    simp

/-! ## The reads -/

/-- Settles O13: outside the destinations `readLoc` is the location's current value. -/
theorem readsReturnCurrentValues : Obligations.ReadsReturnCurrentValues := by
  refine fun s => ⟨rfl, rfl, rfl, isDestination_control (by simp) s, isDestination_of_idle, fun l hl => ?_⟩
  cases l with
  | irqEn => intro j; rw [readLoc_irqEn]; exact getLsbD_irqWord _ _ j
  | irqStat => intro j; rw [readLoc_irqStat]; exact getLsbD_irqWord _ _ j
  | buf b j =>
    intro lane hlane
    have hread : s.readLoc (.buf b j) = s.readBufWord b j := by simp [State.readLoc, hl]
    rw [hread]
    exact extractLsb'_wordOfLanes (s.readLane b j) hlane
  | _ => simp [State.ReadsCurrent, State.readLoc, hl, State.control, idWord, paramWord]

/-- Settles O14: ID, PARAM and E have no state of their own. -/
theorem constantRegisters : Obligations.ConstantRegisters := by
  have hE (s : State) (i : Nat) : s.readLoc (.big .E i) = if i = 0 then 0x00010001#32 else 0#32 := by
    simp only [State.readLoc, isDestination_E, Bool.false_eq_true, if_false, State.getBig, Config.nw]
    exact getD_wordsOf_ePub _ i
  refine ⟨fun s => ⟨rfl, readLoc_id s⟩, fun s _ => ⟨rfl, ?_, ?_⟩, fun s hk => ?_, fun s hk => ?_,
    fun s => ⟨hE s 0, fun i hi => ?_⟩, fun s v => ⟨rfl, rfl, fun i => rfl⟩⟩
  · rw [readLoc_param]
    exact BitVec.extractLsb'_append_eq_right
  · rw [readLoc_param]
    exact BitVec.extractLsb'_append_eq_left
  · simp [paramWord, Config.lmax, Config.dcap, hk]
  · simp [paramWord, Config.lmax, Config.dcap, hk]
  · rw [hE, if_neg (by omega)]

/-! ## The control registers that the host writes -/

/-- Settles O15, bit by bit: the enables take bits 0 and 1 of the word, and the other bits read 0. -/
theorem irqEnableRegister : Obligations.IrqEnableRegister := by
  refine fun s v => ⟨rfl, ⟨_, rfl, rfl, ?_⟩, fun j => ?_, ?_⟩
  · apply BitVec.eq_of_getLsbD_eq
    intro j hj
    rw [readLoc_irqEn, getLsbD_irqWord, BitVec.getLsbD_and]
    interval_cases j <;> simp [State.writeLoc, State.writeIrqEn]
  · rw [readLoc_irqEn, getLsbD_irqWord]
  · rw [readLoc_irqEn]; decide

/-- Settles O16, bit by bit: a pending bit stays where the word has a 0. -/
theorem irqStatusRegister : Obligations.IrqStatusRegister := by
  intro s v
  simp only [readLoc_irqStat]
  refine ⟨rfl, ?_, ?_, ?_, ⟨_, rfl, rfl, ?_⟩, by decide⟩
  · rw [getLsbD_irqWord]; simp
  · rw [getLsbD_irqWord]; simp
  · apply BitVec.eq_of_getLsbD_eq
    intro j hj
    rw [BitVec.getLsbD_extractLsb', getLsbD_irqWord]
    simp
    omega
  · apply BitVec.eq_of_getLsbD_eq
    intro j hj
    rw [getLsbD_irqWord, BitVec.getLsbD_and, getLsbD_irqWord, BitVec.getLsbD_not]
    rcases j with _ | _ | j <;> simp [State.writeLoc, State.writeIrqStat]

/-- The low half of a word, zero-extended. -/
theorem setWidth_setWidth_low (v : Word) : (v.setWidth 16).setWidth 32 = v &&& 0xFFFF#32 := by
  apply BitVec.eq_of_toNat_eq
  have hand : v.toNat &&& 0xFFFF = v.toNat % 2 ^ 16 := Nat.and_two_pow_sub_one_eq_mod v.toNat 16
  rw [BitVec.toNat_and, show (0xFFFF#32).toNat = 0xFFFF from rfl, hand]
  simp only [BitVec.toNat_setWidth]
  omega

/-- An idle block shows its length registers (spec/10_state.md R34, R35). -/
theorem readLoc_lengths_of_idle {s : State} (hb : s.busy = false) :
    s.readLoc .msgLen = s.msgLen.setWidth 32 ∧ s.readLoc .blkLen = s.blkLen.setWidth 32 := by
  simp [State.readLoc, isDestination_of_idle hb, State.control]

/-- An idle block takes the low half of a length. -/
theorem writeHost_lengths_of_idle {s : State} (hb : s.busy = false) (v : Word) :
    writeHost .msgLen v s = .next { s with msgLen := v.setWidth 16 } ∧
      writeHost .blkLen v s = .next { s with blkLen := v.setWidth 16 } := by
  simp [writeHost, State.writeLoc, State.writeOperand, hb]

/-- Settles O18: an idle block takes the low half of the word and shows it zero-extended. -/
theorem lengthRegisters : Obligations.LengthRegisters := by
  refine fun s v => ⟨rfl, rfl, fun hb => ?_⟩
  obtain ⟨hmsg, hblk⟩ := writeHost_lengths_of_idle hb v
  refine ⟨⟨_, hmsg, rfl, ?_⟩, ⟨_, hblk, rfl, ?_⟩⟩
  · have hread := (readLoc_lengths_of_idle (s := { s with msgLen := v.setWidth 16 }) hb).1
    exact hread.trans (setWidth_setWidth_low v)
  · have hread := (readLoc_lengths_of_idle (s := { s with blkLen := v.setWidth 16 }) hb).2
    exact hread.trans (setWidth_setWidth_low v)

/-- The fields of STATUS (Table T10.2). -/
theorem statusWord_fields (s : State) :
    s.statusWord.getLsbD 0 = s.busy ∧ s.statusWord.getLsbD 1 = s.done ∧
    s.statusWord.getLsbD 2 = s.err ∧ s.statusWord.getLsbD 3 = s.keyValid ∧
    s.statusWord.extractLsb' 4 4 = s.errCode ∧ s.statusWord.extractLsb' 8 4 = s.subcause ∧
    s.statusWord.getLsbD 12 = s.rej ∧ s.statusWord.getLsbD 13 = s.wign ∧
    s.statusWord.getLsbD 14 = s.busErr ∧ s.statusWord.extractLsb' 15 17 = 0#17 := by
  have hbit {j : Nat} (h : j < 32) := getLsbD_statusWord s h
  refine ⟨hbit (by decide), hbit (by decide), hbit (by decide), hbit (by decide), ?_, ?_,
    hbit (by decide), hbit (by decide), hbit (by decide), ?_⟩ <;>
    refine BitVec.eq_of_getLsbD_eq fun j hj => ?_ <;>
    rw [BitVec.getLsbD_extractLsb', hbit (by omega)] <;> interval_cases j <;> rfl

/-- Settles O19: the write clears bits 12, 13 and 14 where the word has a 1, and no other bit. -/
theorem statusRegister : Obligations.StatusRegister := by
  intro s v
  obtain ⟨hbusy, hdone, herr, hkey, hcode, hsub, hrej, hwign, hbuserr, hzero⟩ := statusWord_fields s
  simp only [readLoc_status]
  refine ⟨rfl, hbusy, hdone, herr, hkey, hcode, hsub, hrej, hwign, hbuserr, hzero, _, rfl, rfl, ?_⟩
  refine BitVec.eq_of_getLsbD_eq fun j hj => ?_
  rw [BitVec.getLsbD_and, BitVec.getLsbD_not, BitVec.getLsbD_and, getLsbD_statusWord _ hj,
    getLsbD_statusWord _ hj]
  interval_cases j <;> simp [State.writeLoc, State.writeStatus, State.busy]

end Sys2Proof.Machine
end

section
/-!
What a reset and the acceptance of a command leave (spec/10_state.md R54, R55, Table T10.6;
spec/43_control.md R241).
-/

namespace Sys2Proof.Machine

/-- The registers after either reset, whatever the buffers and the reset input. -/
theorem atReset_resetRegs (s : State) (m : Memory) (b : Bool) :
    ({ s.resetRegs with mem := m, rst := b } : State).AtReset where
  ctrl := rfl
  constants := ⟨readLoc_id _, readLoc_param _⟩
  lastOp := rfl
  status := by simp [State.statusWord, State.resetRegs, State.resetOf, State.busy]; decide
  irqEn := ⟨rfl, rfl⟩
  irqStat := ⟨rfl, rfl⟩
  counts := ⟨rfl, rfl, rfl, rfl, rfl⟩
  zero r hr := by
    cases r
    case E => exact absurd rfl hr
    all_goals rfl
  e := rfl
  noRequest := rfl
  irq := rfl

/-- SRESET clears the marks of the buffer that an aborted ENCODE or DECODE was writing. -/
theorem read_abortedMem (s : State) (a : Nat) :
    s.abortedMem.read a =
      if (s.ctrl.command = some .encode ∧ 0x3400 ≤ a ∧ a < 0x3400 + s.cfg.dcap) ∨
         (s.ctrl.command = some .decode ∧ 0x3000 ≤ a ∧ a < 0x3000 + s.cfg.lmax)
      then none else s.mem.read a := by
  unfold State.abortedMem
  split
  · rename_i hc; simp [hc, Memory.read_erase, Buf.offset]
  · rename_i hc; simp [hc, Memory.read_erase, Buf.offset]
  · rename_i hne hnd
    rw [if_neg]
    rintro (⟨hc, -⟩ | ⟨hc, -⟩)
    · exact hne hc
    · exact hnd hc

/-- Settles O23: both resets give the registers their reset values, and differ in the buffers. -/
theorem resetValues : Obligations.ResetValues := by
  refine ⟨fun c => ⟨atReset_resetRegs (State.resetOf c) [] false, rfl⟩, fun s => ?_, fun s hr => ?_⟩
  · exact ⟨_, rfl, atReset_resetRegs s s.abortedMem s.rst, read_abortedMem s, rfl, rfl⟩
  · exact ⟨_, congrArg Host.Outcome.next (if_pos hr), atReset_resetRegs s [] false, rfl, rfl, rfl⟩

/-- An executed command is issued by an idle block (spec/30_encoding.md R101). -/
theorem exec_of_firstState {i : Instr} {c : Ctrl} {s : State} (hc : firstState i = some c)
    (hb : s.busy = false) : exec i s = .next (startedState i c s) := by
  rcases exec_cases i s with ⟨rfl, -⟩ | ⟨-, hb', -⟩ | ⟨rfl, -, -⟩ | ⟨hi, -, -⟩ | ⟨c', hc', -, he⟩
  · cases hc
  · cases hb.symm.trans hb'
  · cases hc
  · cases i <;> cases hc <;> cases hi
  · cases hc.symm.trans hc'; exact he

/-- A reserved opcode completes at its issue (spec/43_control.md R242). -/
theorem exec_of_reserved {i : Instr} {s : State} (hi : i.reserved = true) (hb : s.busy = false) :
    exec i s = .next (raiseErr .illegalCmd 0 (s.accept i)) := by
  rcases exec_cases i s with ⟨rfl, -⟩ | ⟨-, hb', -⟩ | ⟨rfl, -, -⟩ | ⟨-, -, he⟩ | ⟨c, hc, -, -⟩
  · cases hi
  · cases hb.symm.trans hb'
  · cases hi
  · exact he
  · cases i <;> cases hc <;> cases hi

/-- An executed command's issue leaves its OP in LAST_OP, and the block is busy. -/
theorem startedState_spec {i : Instr} {c : Ctrl} {s : State} (h : firstState i = some c) :
    (startedState i c s).lastOp = i.op ∧ (startedState i c s).busy = true := by
  cases i <;> cases h <;> exact ⟨rfl, rfl⟩

/-- Settles O27: an idle block starts the five commands, completes a reserved opcode, and passes NOP. -/
theorem acceptanceStartsCommand : Obligations.AcceptanceStartsCommand := by
  intro s hb
  refine ⟨exec_of_firstState rfl hb, exec_of_firstState rfl hb, exec_of_firstState rfl hb,
    exec_of_firstState rfl hb, exec_of_firstState rfl hb, fun i t hi h => ?_, fun i t hi h => ?_,
    issue_idle hb, fun t h => ?_⟩
  · have hfirst : ∃ c, firstState i = some c := by
      simp only [List.mem_cons, List.not_mem_nil, or_false] at hi
      rcases hi with rfl | rfl | rfl | rfl | rfl <;> exact ⟨_, rfl⟩
    obtain ⟨c, hc⟩ := hfirst
    cases (exec_of_firstState hc hb).symm.trans h
    have hbusy := (startedState_spec (s := s) hc).2
    exact ⟨hbusy, by rw [readLoc_status, (statusWord_fields _).1, hbusy]⟩
  · cases (exec_of_reserved hi hb).symm.trans h
    exact ⟨rfl, rfl, rfl, rfl, rfl⟩
  · cases h
    exact ⟨rfl, rfl, rfl, rfl, rfl⟩

end Sys2Proof.Machine
end

section
/-!
What the controller and the external agents do to a command: it goes on, it fails, or it completes
(spec/10_state.md Table T10.4; spec/60_exceptions.md R261, R262).
-/

namespace Sys2Proof.Machine

/-- The big-integer registers that the block itself writes in a controller state (spec/10_state.md Table
T10.3). -/
def BlockWrites (k : Ctrl) : BigName → Prop
  | .A | .B | .E => False
  | .X | .Y | .G => k = .egRun
  | .P => (∃ n c, k = .kgPrimeP n c) ∨ ∃ cmd n d, k = .kgCommit cmd n d
  | .Q => (∃ n p c, k = .kgPrimeQ n p c) ∨ ∃ cmd n d, k = .kgCommit cmd n d
  | .N | .D => ∃ cmd n d, k = .kgCommit cmd n d
  | .PHI => (∃ cmd p q, k = .kgArith cmd p q) ∨ ∃ cmd n d, k = .kgCommit cmd n d

/-- A move changes only registers that the block writes in its controller state. -/
def WritesOwn (s t : State) : Prop := ∀ r, t.getBig r = s.getBig r ∨ BlockWrites s.ctrl r

/-- The executing command, if any, goes on: only its work registers and counters differ. -/
structure GoesOn (s t : State) : Prop where
  frame : t = { s with
    ctrl := t.ctrl, P := t.P, Q := t.Q, PHI := t.PHI, iterCnt := t.iterCnt, retryCnt := t.retryCnt }
  command : t.ctrl.command = s.ctrl.command
  writes : WritesOwn s t

/-- The executing command ends with an error. -/
structure Fails (s t : State) : Prop where
  busy : s.busy = true
  raised : ∃ c pos, t = raiseErr c pos s

/-- The executing command ends with success; KEYVALID changes at a commit only. -/
structure Completes (s t : State) : Prop where
  busy : s.busy = true
  frame : t = { s with
    ctrl := .idle, done := true, doneIP := true
    X := t.X, Y := t.Y, G := t.G, P := t.P, Q := t.Q, N := t.N, PHI := t.PHI, D := t.D
    mem := t.mem, msgLen := t.msgLen, blkLen := t.blkLen, iterCnt := t.iterCnt
    keyValid := t.keyValid }
  key : t.keyValid = s.keyValid ∨ t.keyValid = true ∧ ∃ cmd n d, s.ctrl = .kgCommit cmd n d
  writes : WritesOwn s t

theorem WritesOwn.none {s t : State} (h : ∀ r, t.getBig r = s.getBig r) : WritesOwn s t :=
  fun r => .inl (h r)

theorem GoesOn.refl (s : State) : GoesOn s s := ⟨rfl, rfl, .none fun _ => rfl⟩

/-- The command goes on in another controller state, and nothing else differs. -/
theorem GoesOn.withCtrl {s : State} {k c : Ctrl} (hk : s.ctrl = k) (hc : c.command = k.command) :
    GoesOn s { s with ctrl := c } := ⟨rfl, hk ▸ hc, .none fun _ => rfl⟩

/-- A command that goes on leaves the block as busy as it was. -/
theorem GoesOn.busy_eq {s t : State} (h : GoesOn s t) : t.busy = s.busy := by
  rw [Bool.eq_iff_iff, busy_eq_true_iff, busy_eq_true_iff, ne_eq, ne_eq, ← command_eq_none_iff,
    ← command_eq_none_iff, h.command]

theorem egcdRun_effect {s : State} (hk : s.ctrl = .egRun) :
    Fails s (egcdRun s) ∨ Completes s (egcdRun s) := by
  have hb := busy_of_ctrl hk nofun
  simp only [egcdRun]
  split
  · refine .inr ⟨hb, rfl, .inl rfl, fun r => ?_⟩
    cases r
    case X | Y | G => exact .inr hk
    all_goals exact .inl rfl
  · exact .inl ⟨hb, _, _, rfl⟩

theorem derivCheck_effect {s : State} (hk : s.ctrl = .dvCheck) :
    GoesOn s (derivCheck s) ∨ Fails s (derivCheck s) := by
  have hb := busy_of_ctrl hk nofun
  simp only [derivCheck]
  split_ifs
  · exact .inr ⟨hb, _, _, rfl⟩
  · exact .inr ⟨hb, _, _, rfl⟩
  · exact .inr ⟨hb, _, _, rfl⟩
  · exact .inl (.withCtrl hk rfl)

theorem keyArith_goesOn {s : State} {cmd : KeyCmd} {p q : Nat} (hk : s.ctrl = .kgArith cmd p q) :
    GoesOn s (keyArith cmd p q s) := by
  refine ⟨rfl, hk ▸ rfl, fun r => ?_⟩
  cases r
  case PHI => exact .inr (.inl ⟨_, _, _, hk⟩)
  all_goals exact .inl rfl

theorem keyCheck_effect {s : State} {cmd : KeyCmd} {n phi : Nat} {t : Bezout}
    (hk : s.ctrl = .kgCheck cmd n phi t) :
    GoesOn s (keyCheck cmd n phi t s) ∨ Fails s (keyCheck cmd n phi t s) := by
  have hb := busy_of_ctrl hk nofun
  unfold keyCheck
  split
  · exact .inl (.withCtrl hk rfl)
  · cases cmd with
    | derive => exact .inr ⟨hb, _, _, rfl⟩
    | keygen r =>
      dsimp only
      split
      · exact .inr ⟨hb, _, _, rfl⟩
      · exact .inl ⟨rfl, hk ▸ rfl, .none fun _ => rfl⟩

theorem keyCommit_completes {s : State} {cmd : KeyCmd} {n d : Nat}
    (hk : s.ctrl = .kgCommit cmd n d) : Completes s (keyCommit n d s) := by
  refine ⟨busy_of_ctrl hk nofun, rfl, .inr ⟨rfl, _, _, _, hk⟩, fun r => ?_⟩
  cases r
  case P | Q | PHI => exact .inr (.inr ⟨_, _, _, hk⟩)
  case N | D => exact .inr ⟨_, _, _, hk⟩
  all_goals exact .inl rfl

theorem encodeCheck_effect {s : State} (hk : s.ctrl = .enRun none) :
    GoesOn s (encodeCheck s) ∨ Fails s (encodeCheck s) := by
  unfold encodeCheck
  split
  · exact .inr ⟨busy_of_ctrl hk nofun, _, _, rfl⟩
  · exact .inl (.withCtrl hk rfl)

theorem encodeFinish_completes {s t : State} {o : Option (List Byte)} {filler : List Byte}
    (hk : s.ctrl = .enRun o) (h : encodeFinish filler s = .next t) : Completes s t := by
  unfold encodeFinish at h
  split at h <;> cases h
  generalize paddedBlock filler _ = block
  exact ⟨busy_of_ctrl hk nofun, rfl, .inl rfl, .none fun _ => rfl⟩

theorem decodeRun_effect {s t : State} (hk : s.ctrl = .deRun) (h : decodeRun s = .next t) :
    Fails s t ∨ Completes s t := by
  have hb := busy_of_ctrl hk nofun
  simp only [decodeRun] at h
  split at h
  · cases h; exact .inl ⟨hb, _, _, rfl⟩
  · split at h
    · cases h
    · cases h; exact .inl ⟨hb, _, _, rfl⟩
    · split at h <;> cases h
      · exact .inl ⟨hb, _, _, rfl⟩
      · exact .inr ⟨hb, rfl, .inl rfl, .none fun _ => rfl⟩

/-- Everything that a controller step does. -/
theorem controllerStep_cases {s t : State} (h : controllerStep s = .next t) :
    GoesOn s t ∨ Fails s t ∨ Completes s t := by
  unfold controllerStep at h
  split at h
  case h_2 hk => cases h; exact .inr (egcdRun_effect hk)
  case h_7 hk => cases h; exact (derivCheck_effect hk).imp_right .inl
  case h_8 hk => cases h; exact .inl (keyArith_goesOn hk)
  case h_9 hk => cases h; exact .inl ⟨rfl, hk ▸ rfl, .none fun _ => rfl⟩
  case h_10 hk => cases h; exact (keyCheck_effect hk).imp_right .inl
  case h_11 hk => cases h; unfold keyNorm; split <;> exact .inl (.withCtrl hk rfl)
  case h_12 hk => cases h; exact .inr (.inr (keyCommit_completes hk))
  case h_13 hk => cases h; exact (encodeCheck_effect hk).imp_right .inl
  case h_14 hk =>
    split at h
    · cases h; exact .inl (.refl s)
    · exact .inr (.inr (encodeFinish_completes hk h))
  case h_15 hk => exact .inr (decodeRun_effect hk h)
  all_goals cases h; exact .inl (.refl _)

theorem controllerTurn_effect {s t : State} (h : controllerTurn s = .next t) :
    GoesOn s t ∨ Fails s t ∨ Completes s t := by
  rcases controllerTurn_cases h with rfl | ⟨-, h⟩
  · exact .inl (.refl _)
  · exact controllerStep_cases h

/-- An idle controller's turn changes nothing. -/
theorem controllerTurn_of_idle {s t : State} (hk : s.ctrl = .idle) (h : controllerTurn s = .next t) :
    t = s := by
  simp only [controllerTurn, controllerStep, hk, ite_self] at h
  cases h; rfl

/-- A drawn word moves the controller on. -/
theorem takeWord_goesOn (w : Word) (s : State) : GoesOn s (takeWord w s) := by
  unfold takeWord
  split
  case h_1 hk => simp only [drawP]; split <;> exact .withCtrl hk rfl
  case h_2 hk => simp only [drawQ]; split <;> exact .withCtrl hk rfl
  case h_3 hk => exact .withCtrl hk rfl
  case h_4 => exact .refl s

/-- A prime answer moves the controller on, or ends KEYGEN with an error. -/
theorem takePrime_effect (e : Bool) (r : Nat) (s : State) :
    GoesOn s (takePrime e r s) ∨ Fails s (takePrime e r s) := by
  unfold takePrime
  split
  case h_1 hk =>
    unfold primeP
    split
    · exact .inr ⟨busy_of_ctrl hk nofun, _, _, rfl⟩
    · refine .inl ⟨rfl, hk ▸ rfl, fun r => ?_⟩
      cases r
      case P => exact .inr (.inl ⟨_, _, hk⟩)
      all_goals exact .inl rfl
  case h_2 hk =>
    unfold primeQ
    split
    · exact .inr ⟨busy_of_ctrl hk nofun, _, _, rfl⟩
    · refine .inl ⟨rfl, hk ▸ rfl, fun r => ?_⟩
      cases r
      case Q => exact .inr (.inl ⟨_, _, _, hk⟩)
      all_goals exact .inl rfl
  case h_3 => exact .inl (.refl s)

end Sys2Proof.Machine
end

section
/-!
What the host's turn does: it issues no command that is accepted, or it writes a command to CMD
(spec/20_memory.md R74-R79; spec/30_encoding.md R101; spec/70_reset_and_hazards.md R310, R311).
-/

namespace Sys2Proof.Machine

/-- The host's next operation is a legal write of `v` to the location `l`: `HostWrites` but for the turn. -/
def State.NextWrite (s : State) (l : Loc) (v : Word) : Prop :=
  ∃ a rest, s.host = .access (.write a 32 0xF#4 v) :: rest ∧
    s.cfg.base ≤ a ∧ a < s.cfg.base + 0x4000 ∧ (a - s.cfg.base) % 4 = 0 ∧
    locate s.cfg (a - s.cfg.base) = some l

theorem nextWrite_congr {s t : State} (hh : t.host = s.host) (hc : t.cfg = s.cfg) (l : Loc)
    (v : Word) : t.NextWrite l v ↔ s.NextWrite l v := by
  unfold State.NextWrite; rw [hh, hc]

/-- No command is accepted: no pending bit rises, and the operands change on an idle block only. -/
structure Passive (s t : State) : Prop where
  frame : t = { s with
    rej := t.rej, wign := t.wign, busErr := t.busErr, doneIE := t.doneIE, errIE := t.errIE
    doneIP := t.doneIP, errIP := t.errIP, msgLen := t.msgLen, blkLen := t.blkLen
    A := t.A, B := t.B, P := t.P, Q := t.Q, mem := t.mem
    host := t.host, trace := t.trace, draws := t.draws }
  doneIP : t.doneIP = true → s.doneIP = true
  errIP : t.errIP = true → s.errIP = true
  operands : s.busy = true → t.A = s.A ∧ t.B = s.B ∧ t.P = s.P ∧ t.Q = s.Q ∧ t.mem = s.mem

theorem Quiet.passive {s t : State} (h : Quiet s t) : Passive s t := by
  unfold Quiet at h
  rw [h]
  exact ⟨rfl, id, id, fun _ => ⟨rfl, rfl, rfl, rfl, rfl⟩⟩

theorem Passive.trans {s t u : State} (h : Passive s t) (h' : Passive t u) : Passive s u where
  frame := by have hf := h.frame; have hf' := h'.frame; rw [hf', hf]
  doneIP hu := h.doneIP (h'.doneIP hu)
  errIP hu := h.errIP (h'.errIP hu)
  operands hb := by
    have hbt : t.busy = true := by rw [h.frame]; exact hb
    obtain ⟨hA, hB, hP, hQ, hm⟩ := h.operands hb
    obtain ⟨hA', hB', hP', hQ', hm'⟩ := h'.operands hbt
    exact ⟨hA'.trans hA, hB'.trans hB, hP'.trans hP, hQ'.trans hQ, hm'.trans hm⟩

theorem Passive.refl (s : State) : Passive s s := (Quiet.refl s).passive

/-- An operand write is ignored in the busy window (spec/70_reset_and_hazards.md R310). -/
theorem writeOperand_passive {s : State} {write : State → State}
    (h : s.busy = false → Passive s (write s)) : Passive s (s.writeOperand write) := by
  unfold State.writeOperand
  split
  · exact ⟨rfl, id, id, fun _ => ⟨rfl, rfl, rfl, rfl, rfl⟩⟩
  · exact h (by simpa using ‹¬s.busy = true›)

theorem writeLoc_passive (s : State) (l : Loc) (v : Word) : Passive s (s.writeLoc l v) := by
  cases l with
  | id | param | cmd | errPos | iterCnt | retryCnt => exact .refl s
  | status | irqEn => exact ⟨rfl, id, id, fun _ => ⟨rfl, rfl, rfl, rfl, rfl⟩⟩
  | irqStat =>
    exact ⟨rfl, Bool.and_elim_left, Bool.and_elim_left, fun _ => ⟨rfl, rfl, rfl, rfl, rfl⟩⟩
  | msgLen | blkLen =>
    simp only [State.writeLoc]
    exact writeOperand_passive fun hb => ⟨rfl, id, id, by simp [hb]⟩
  | big r i =>
    simp only [State.writeLoc]
    split
    · refine writeOperand_passive fun hb => ?_
      cases r
      case A | B | P | Q => exact ⟨rfl, id, id, by simp [hb]⟩
      all_goals cases ‹BigName.hostWritable _ = true›
    · exact .refl s
  | buf b j =>
    simp only [State.writeLoc]
    refine writeOperand_passive fun hb => ?_
    obtain ⟨m, hm, -⟩ := writeBufWord_spec s b j v
    rw [hm]
    exact ⟨rfl, id, id, by simp [hb]⟩

/-- A command is accepted: SRESET, a reserved opcode, or one of the five executed commands. -/
def Accepts (i : Instr) (s t : State) : Prop :=
  (i = .sreset ∧ t = s.softReset) ∨
  (i.reserved = true ∧ s.busy = false ∧ t = raiseErr .illegalCmd 0 (s.accept i)) ∨
  (∃ c, firstState i = some c ∧ s.busy = false ∧ t = startedState i c s)

/-- A command that is not accepted sets REJ at most (spec/30_encoding.md R101). -/
theorem exec_effect {i : Instr} {s t : State} (h : exec i s = .next t) :
    t = { s with rej := t.rej } ∨ Accepts i s t := by
  rcases exec_cases i s with ⟨hi, he⟩ | ⟨-, -, he⟩ | ⟨-, -, he⟩ | ⟨hi, hb, he⟩ | ⟨c, hc, hb, he⟩ <;>
    cases he.symm.trans h
  · exact .inr (.inl ⟨hi, rfl⟩)
  · exact .inl rfl
  · exact .inl rfl
  · exact .inr (.inr (.inl ⟨hi, hb, rfl⟩))
  · exact .inr (.inr (.inr ⟨c, hc, hb, rfl⟩))

/-- The host's turn is passive, or its write to CMD is accepted. -/
theorem hostTurn_effect {s t : State} (h : hostTurn s = .next t) :
    Passive s t ∨ ∃ v s0, s.NextWrite .cmd v ∧ Quiet s s0 ∧ Accepts (decode v) s0 t := by
  rcases hostTurn_cases h with hq | ⟨ad, l, v, rest, s0, hh, _, hb, hw, h4, hl, hq, _, hx⟩
  · exact .inl hq.passive
  · rcases writeHost_cases hx with ⟨rfl, he⟩ | ⟨-, rfl⟩
    · rcases exec_effect he with hrej | ha
      · have hp : Passive s0 t := by
          rw [hrej]; exact ⟨rfl, id, id, fun _ => ⟨rfl, rfl, rfl, rfl, rfl⟩⟩
        exact .inl (hq.passive.trans hp)
      · exact .inr ⟨v, s0, ⟨ad, rest, hh, hb, hw, h4, hl⟩, hq, ha⟩
    · exact .inl (hq.passive.trans (writeLoc_passive s0 l v))

/-- In the busy window only SRESET is accepted (spec/70_reset_and_hazards.md R311). -/
theorem hostTurn_effect_of_busy {s t : State} (hb : s.busy = true) (h : hostTurn s = .next t) :
    Passive s t ∨
      ∃ v s0, s.NextWrite .cmd v ∧ decode v = .sreset ∧ Quiet s s0 ∧ t = s0.softReset := by
  rcases hostTurn_effect h with hp | ⟨v, s0, hw, hq, ha⟩
  · exact .inl hp
  · have hb0 : s0.busy = true := by rw [hq]; exact hb
    rcases ha with ⟨hi, rfl⟩ | ⟨-, hb', -⟩ | ⟨_, -, hb', -⟩
    · exact .inr ⟨v, s0, hw, hi, hq, rfl⟩
    · simp [hb0] at hb'
    · simp [hb0] at hb'

end Sys2Proof.Machine
end

section
/-!
Which move changes CMD, KEYVALID and the pending bits (spec/10_state.md R24, R29, R33).
-/

namespace Sys2Proof.Machine

/-- Only the pending bits may differ once a set has won over a clear. -/
theorem setWins_frame (s c t : State) :
    setWins s c t = { t with doneIP := (setWins s c t).doneIP, errIP := (setWins s c t).errIP } := by
  unfold setWins; split <;> rfl

theorem startedState_keyValid (i : Instr) (c : Ctrl) (s : State) :
    (startedState i c s).keyValid = s.keyValid ∨
      (i = .keygen ∨ i = .derive) ∧ (startedState i c s).keyValid = false := by
  cases i
  case keygen => exact .inr ⟨.inl rfl, rfl⟩
  case derive => exact .inr ⟨.inr rfl, rfl⟩
  all_goals exact .inl rfl

theorem busy_of_controllerReady {s : State} (h : s.controllerReady = true) : s.busy = true := by
  simp only [State.controllerReady, Bool.and_eq_true] at h
  exact h.1.1

/-! ## CMD -/

theorem exec_lastOp {i : Instr} {s t : State} (h : exec i s = .next t) :
    t.lastOp = if i = .sreset then 0 else if s.busy = true ∨ i = .nop then s.lastOp else i.op := by
  rcases exec_cases i s with ⟨hi, he⟩ | ⟨hi, hb, he⟩ | ⟨hi, hb, he⟩ | ⟨hi, hb, he⟩ | ⟨c, hc, hb, he⟩ <;>
    cases he.symm.trans h
  · simp [hi]
  · simp [hi, hb]
  · simp [hi]
  · cases i <;> cases hi <;> simp [hb]
  · rw [(startedState_spec hc).1]
    cases i <;> cases hc <;> simp [hb]

theorem hostTurn_lastOp {s t : State} (h : hostTurn s = .next t) :
    t.lastOp = s.lastOp ∨ ∃ v, s.NextWrite .cmd v := by
  rcases hostTurn_effect h with hp | ⟨v, _, hw, -, -⟩
  · exact .inl (by rw [hp.frame])
  · exact .inr ⟨v, hw⟩

/-- LAST_OP changes only at the host's write to CMD and at the release of the reset input. -/
theorem step_lastOp {s t : State} (h : step s = .next t) :
    t.lastOp = s.lastOp ∨ (s.Releases ∧ t.lastOp = 0) ∨ ∃ v, s.HostWrites .cmd v := by
  obtain ⟨s', hs, hc⟩ := step_cases h
  generalize s'.turns = ts at hs
  subst hs
  have fromHost {u v : State} (hm : s.HostMoves) (hu : hostTurn u = .next v)
      (hop : u.lastOp = s.lastOp) (hh : u.host = s.host) (hcfg : u.cfg = s.cfg) :
      v.lastOp = s.lastOp ∨ ∃ w, s.HostWrites .cmd w := by
    rcases hostTurn_lastOp hu with he | ⟨w, hw⟩
    · exact .inl (he.trans hop)
    · exact .inr ⟨w, hm, (nextWrite_congr hh hcfg _ _).mp hw⟩
  rcases hc with ⟨hm, h1⟩ | h1 | ⟨hm, -, u, h1, h2⟩ | ⟨hm, -, u, v, h1, h2, rfl⟩ | ⟨w, -, rfl⟩ |
    ⟨e, r, -, rfl⟩ | rfl | rfl | ⟨hr, rfl⟩
  · exact (fromHost hm h1 rfl rfl rfl).imp_right .inr
  · exact .inl (controllerTurn_keeps h1).1.lastOp
  · rw [(controllerTurn_keeps h2).1.lastOp]
    exact (fromHost hm h1 rfl rfl rfl).imp_right .inr
  · have hk := (controllerTurn_keeps h1).1
    rw [setWins_frame]
    exact (fromHost hm h2 hk.lastOp hk.host hk.cfg).imp_right .inr
  · exact .inl (takeWord_keeps w _).1.lastOp
  · exact .inl (takePrime_keeps e r _).1.lastOp
  · exact .inl rfl
  · exact .inl rfl
  · exact .inr (.inl ⟨hr, rfl⟩)

/-- Settles O20: CMD reads LAST_OP, which the issue of a command sets as R24 says, and which no other
move but a release changes. -/
theorem cmdReadsLastAcceptedCommand : Obligations.CmdReadsLastAcceptedCommand := by
  refine ⟨fun s t i h => ?_, fun c => ?_, fun s t h hne => ?_⟩
  · rw [readLoc_cmd, exec_lastOp h]
    split_ifs <;> rfl
  · rw [readLoc_cmd]; rfl
  · rcases step_lastOp h with he | ⟨hr, h0⟩ | hw
    · exact absurd (by rw [readLoc_cmd, readLoc_cmd, he]) hne
    · exact .inl ⟨hr, by rw [readLoc_cmd, h0]; rfl⟩
    · exact .inr hw

/-! ## KEYVALID -/

/-- The controller's own turn changes KEYVALID at a commit only, and then to 1. -/
theorem controllerTurn_keyValid {s t : State} (h : controllerTurn s = .next t) :
    t.keyValid = s.keyValid ∨ t.keyValid = true ∧ ∃ cmd n d, s.ctrl = .kgCommit cmd n d := by
  rcases controllerTurn_effect h with hg | ⟨-, c, pos, rfl⟩ | hc
  · exact .inl (by rw [hg.frame])
  · exact .inl rfl
  · exact hc.key

theorem takePrime_keyValid (e : Bool) (r : Nat) (s : State) :
    (takePrime e r s).keyValid = s.keyValid := by
  rcases takePrime_effect e r s with hg | ⟨-, c, pos, he⟩
  · rw [hg.frame]
  · rw [he, raiseErr_keyValid]

/-- KEYVALID was cleared by a reset, or by the acceptance of KEYGEN or DERIVE. -/
def KeyCleared (t : State) : Prop :=
  (t.ctrl = .idle ∧ t.lastOp = 0) ∨ (t.busy = true ∧ (t.lastOp = 2 ∨ t.lastOp = 3))

/-- The host's turn never sets KEYVALID, and clears it by a reset, KEYGEN or DERIVE only. -/
theorem hostTurn_keyValid {s t : State} (h : hostTurn s = .next t) :
    t.keyValid = s.keyValid ∨ t.keyValid = false ∧ KeyCleared t := by
  rcases hostTurn_effect h with hp | ⟨v, s0, -, hq, ha⟩
  · exact .inl (by rw [hp.frame])
  · have hs : s0.keyValid = s.keyValid := by rw [hq]
    rw [← hs]
    rcases ha with ⟨-, rfl⟩ | ⟨-, -, rfl⟩ | ⟨c, hc, -, rfl⟩
    · exact .inr ⟨rfl, .inl ⟨rfl, rfl⟩⟩
    · exact .inl rfl
    · obtain ⟨hop, hb⟩ := startedState_spec (s := s0) hc
      rcases startedState_keyValid (decode v) c s0 with he | ⟨hi, hf⟩
      · exact .inl he
      · refine .inr ⟨hf, .inr ⟨hb, ?_⟩⟩
        rw [hop]
        exact hi.imp (congrArg Instr.op) (congrArg Instr.op)

/-- Everything that a step can do to KEYVALID. -/
theorem step_keyValid {s t : State} (h : step s = .next t) :
    t.keyValid = s.keyValid ∨ (t.keyValid = true ∧ ∃ cmd n d, s.ctrl = .kgCommit cmd n d) ∨
      (t.keyValid = false ∧ KeyCleared t) := by
  obtain ⟨s', hs, hc⟩ := step_cases h
  generalize s'.turns = ts at hs
  subst hs
  rcases hc with ⟨-, h1⟩ | h1 | ⟨-, hr, u, h1, h2⟩ | ⟨-, -, u, v, h1, h2, rfl⟩ | ⟨w, -, rfl⟩ |
    ⟨e, r, -, rfl⟩ | rfl | rfl | ⟨-, rfl⟩
  · exact (hostTurn_keyValid h1).imp_right .inr
  · exact (controllerTurn_keyValid h1).imp_right .inl
  · rcases hostTurn_effect_of_busy (busy_of_controllerReady hr) h1 with hp | ⟨w, s0, -, -, -, rfl⟩
    · have hk : u.ctrl = s.ctrl := by rw [hp.frame]
      have he : u.keyValid = s.keyValid := by rw [hp.frame]
      rw [← he, ← hk]
      exact (controllerTurn_keyValid h2).imp_right .inl
    · rw [controllerTurn_of_idle rfl h2]
      exact .inr (.inr ⟨rfl, .inl ⟨rfl, rfl⟩⟩)
  · rw [setWins_frame]
    rcases hostTurn_keyValid h2 with he | hclear
    · have hset := controllerTurn_keyValid h1
      rw [← he] at hset
      exact hset.imp_right .inl
    · exact .inr (.inr hclear)
  · exact .inl (by rw [(takeWord_goesOn w _).frame])
  · exact .inl (takePrime_keyValid e r _)
  · exact .inl rfl
  · exact .inl rfl
  · exact .inr (.inr ⟨rfl, .inl ⟨rfl, rfl⟩⟩)

/-- Settles O50: a step leaves KEYVALID, sets it at a commit, or clears it by a reset, KEYGEN or
DERIVE. -/
theorem keyValidChanges : Obligations.KeyValidChanges := by
  intro s t h
  rcases step_keyValid h with he | ⟨ht, hcommit⟩ | ⟨hf, hclear⟩
  · exact ⟨fun h0 h1 => by simp [h0, h1] at he, fun h1 h0 => by simp [h0, h1] at he⟩
  · exact ⟨fun _ _ => hcommit, fun _ h0 => by simp [h0] at ht⟩
  · exact ⟨fun _ h1 => by simp [h1] at hf, fun _ _ => hclear⟩

/-! ## The pending bits -/

/-- No outcome is recorded and no pending bit rises. -/
structure RaisesNothing (s t : State) : Prop where
  done : t.done = true → s.done = true
  err : t.err = true → s.err = true
  doneIP : t.doneIP = true → s.doneIP = true
  errIP : t.errIP = true → s.errIP = true

theorem GoesOn.raisesNothing {s t : State} (h : GoesOn s t) : RaisesNothing s t := by
  rw [h.frame]; exact ⟨id, id, id, id⟩

theorem Passive.raisesNothing {s t : State} (h : Passive s t) : RaisesNothing s t :=
  ⟨by rw [h.frame]; exact id, by rw [h.frame]; exact id, h.doneIP, h.errIP⟩

/-- A recorded outcome sets its pending bit, and a pending bit rises only by a completion that idles the
block: DONE_IP by one of the cause `D`, ERR_IP by one of the cause `E` (spec/10_state.md R33). -/
def PendingRule (s t : State) (D E : Prop) : Prop :=
  (s.done = false → t.done = true → t.doneIP = true) ∧
  (s.err = false → t.err = true → t.errIP = true) ∧
  (s.doneIP = false → t.doneIP = true → D ∧ t.busy = false ∧ t.done = true) ∧
  (s.errIP = false → t.errIP = true → t.busy = false ∧ t.err = true ∧ E)

theorem RaisesNothing.pendingRule {s t : State} {D E : Prop} (h : RaisesNothing s t) :
    PendingRule s t D E :=
  ⟨fun h0 h1 => by simp [h.done h1] at h0, fun h0 h1 => by simp [h.err h1] at h0,
    fun h0 h1 => by simp [h.doneIP h1] at h0, fun h0 h1 => by simp [h.errIP h1] at h0⟩

theorem pendingRule_raiseErr {s u : State} {D E : Prop} (c : ErrCause) (pos : Nat)
    (h : RaisesNothing s u) (he : E) : PendingRule s (raiseErr c pos u) D E :=
  ⟨fun h0 h1 => by simp [h.done h1] at h0, fun _ _ => rfl,
    fun h0 h1 => by simp [h.doneIP h1] at h0, fun _ _ => ⟨rfl, rfl, he⟩⟩

theorem Completes.pendingRule {s t : State} {D E : Prop} (h : Completes s t) (hd : D) :
    PendingRule s t D E := by
  rw [h.frame]
  exact ⟨fun _ _ => rfl, fun h0 h1 => by simp [h0] at h1, fun _ _ => ⟨hd, rfl, rfl⟩,
    fun h0 h1 => by simp [h0] at h1⟩

/-- The host's next operation is the write of a reserved opcode to CMD. -/
def State.WritesReserved (s : State) : Prop :=
  s.busy = false ∧ ∃ a strobes v rest, s.host = .access (.write a 32 strobes v) :: rest ∧
    locate s.cfg (a - s.cfg.base) = some .cmd ∧ (decode v).reserved = true

theorem hostTurn_pendingRule {s t : State} {D : Prop} (h : hostTurn s = .next t) :
    PendingRule s t D s.WritesReserved := by
  rcases hostTurn_effect h with hp | ⟨v, s0, ⟨a, rest, hh, -, -, -, hl⟩, hq, ha⟩
  · exact hp.raisesNothing.pendingRule
  · unfold Quiet at hq
    rcases ha with ⟨-, rfl⟩ | ⟨hi, hb, rfl⟩ | ⟨c, hc, -, rfl⟩
    · exact RaisesNothing.pendingRule ⟨nofun, nofun, nofun, nofun⟩
    · have hb' : s.busy = false := by rw [hq] at hb; exact hb
      refine pendingRule_raiseErr _ _ ?_ ⟨hb', a, _, v, rest, hh, hl, hi⟩
      rw [hq]
      exact ⟨nofun, nofun, id, id⟩
    · refine RaisesNothing.pendingRule ?_
      rw [hq]
      generalize decode v = i at hc
      cases i <;> cases hc <;> exact ⟨nofun, nofun, id, id⟩

/-- Every turn of one agent sets the pending bits as R33 says. -/
theorem takeTurn_pendingRule {s t : State} {turn : Turn} (hone : ∀ b, turn ≠ .together b)
    (h : takeTurn turn s = .next t) :
    PendingRule s t (turn = .controller ∧ s.busy = true)
      ((turn = .controller ∧ s.busy = true) ∨ (∃ tag e r, turn = .primeAnswer tag e r ∧ s.busy = true) ∨
        (turn = .host ∧ s.WritesReserved)) := by
  have quiet {E D : Prop} : PendingRule s s D E := RaisesNothing.pendingRule ⟨id, id, id, id⟩
  cases turn with
  | host =>
    obtain ⟨h1, h2, h3, h4⟩ := hostTurn_pendingRule h
    exact ⟨h1, h2, h3, fun h0 hi => (h4 h0 hi).imp_right (And.imp_right fun hw => .inr (.inr ⟨rfl, hw⟩))⟩
  | controller =>
    rcases controllerTurn_effect h with hg | ⟨hb, c, pos, rfl⟩ | hc
    · exact hg.raisesNothing.pendingRule
    · exact pendingRule_raiseErr c pos ⟨id, id, id, id⟩ (.inl ⟨rfl, hb⟩)
    · exact hc.pendingRule ⟨rfl, hc.busy⟩
  | together b => exact absurd rfl (hone b)
  | randomAnswer tag w =>
    cases h
    rcases answer_cases tag false (takeWord w) s with he | ⟨-, -, he⟩ <;> rw [he]
    · exact quiet
    · exact (takeWord_goesOn w { s with reqId := s.reqId + 1 }).raisesNothing.pendingRule
  | primeAnswer tag e r =>
    cases h
    rcases answer_cases tag true (takePrime e r) s with he | ⟨-, -, he⟩ <;> rw [he]
    · exact quiet
    · rcases takePrime_effect e r { s with reqId := s.reqId + 1 } with hg | ⟨hb, c, pos, hf⟩
      · exact hg.raisesNothing.pendingRule
      · rw [hf]
        exact pendingRule_raiseErr c pos ⟨id, id, id, id⟩ (.inr (.inl ⟨tag, e, r, rfl, hb⟩))
  | assertReset => cases h; exact quiet
  | releaseReset =>
    cases h
    split
    · exact RaisesNothing.pendingRule ⟨nofun, nofun, nofun, nofun⟩
    · exact quiet

/-- Settles O17: each turn follows the rule of the pending bits. -/
theorem completionsSetPending : Obligations.CompletionsSetPending := by
  intro s t turn hone h
  obtain ⟨h1, h2, h3, h4⟩ := takeTurn_pendingRule hone h
  exact ⟨h1, h2, fun h0 hi => and_assoc.mp (h3 h0 hi), h4⟩

/-! ## A clear in the cycle of a completion -/

/-- A write of the host to IRQ_STAT clears pending bits, and is no command. -/
theorem clears_of_wrOp {s : State} {v : Word} {rest : List HostOp}
    (hh : s.host = wrOp s.cfg 0x014 v :: rest) :
    s.hostClearsIrq = true ∧ ∀ w, ¬s.NextWrite .cmd w := by
  constructor
  · simp [State.hostClearsIrq, hh, wrOp, accessLoc, locate, controlAt]
  · rintro w ⟨a, rest', hh', -, -, -, hl⟩
    rw [hh, wrOp] at hh'
    cases hh'
    simp [locate, controlAt] at hl

/-- While a set wins, what the completion recorded has its pending bit. -/
theorem setWins_pending {s c t : State} (hs : s.hostClearsIrq = true) (hc : c.busy = false) :
    (c.done = true → (setWins s c t).doneIP = true) ∧ (c.err = true → (setWins s c t).errIP = true) := by
  constructor <;> intro h <;> simp [setWins, hs, hc, h]

/-- Settles O22: with the host first the completion comes after the clear; with the controller first the
set of the completion wins. -/
theorem setWinsOverClear : Obligations.SetWinsOverClear := by
  intro s t v rest hostFirst hinv hrst hready hhost h hidle
  have hb := busy_of_controllerReady hready
  obtain ⟨hclears, hnocmd⟩ := clears_of_wrOp hhost
  obtain ⟨hdone, herr⟩ := hinv.flags.busyClear hb
  simp only [takeTurn, together, hready, Bool.not_true, Bool.false_eq_true, if_false] at h
  split at h
  · obtain ⟨u, h1, h2⟩ := andThen_next h
    rcases hostTurn_effect h1 with hp | ⟨w, -, hw, -⟩
    · have hu : u.done = false ∧ u.err = false ∧ u.busy = true := by
        rw [hp.frame]; exact ⟨hdone, herr, hb⟩
      obtain ⟨hud, hue, hub⟩ := hu
      rcases controllerTurn_effect h2 with hg | ⟨-, cause, pos, rfl⟩ | hc
      · rw [hg.busy_eq, hub] at hidle; cases hidle
      · exact ⟨fun hd => by simp [hud] at hd, fun _ => rfl⟩
      · rw [hc.frame]; exact ⟨fun _ => rfl, fun he => by simp [hue] at he⟩
    · exact absurd hw (hnocmd w)
  · obtain ⟨c, h1, h2⟩ := andThen_next h
    obtain ⟨u, h3, h4⟩ := andThen_next h2
    cases h4
    have hk := (controllerTurn_keeps h1).1
    rcases hostTurn_effect h3 with hp | ⟨w, -, hw, -⟩
    · have ht : (setWins s c u).busy = c.busy ∧ (setWins s c u).done = c.done ∧
          (setWins s c u).err = c.err := by
        rw [setWins_frame, hp.frame]; exact ⟨rfl, rfl, rfl⟩
      obtain ⟨htb, htd, hte⟩ := ht
      rw [htd, hte]
      exact setWins_pending hclears (htb.symm.trans hidle)
    · exact absurd ((nextWrite_congr hk.host hk.cfg _ _).mp hw) (hnocmd w)

end Sys2Proof.Machine
end

section
/-!
Who writes the big-integer registers over a step (spec/10_state.md Table T10.3, R40-R47).
-/

namespace Sys2Proof.Machine

/-- Under a reset a register becomes 0, but for the constant E. -/
theorem getBig_reset (s : State) (m : Memory) (b : Bool) (r : BigName) :
    ({ s.resetRegs with mem := m, rst := b } : State).getBig r = s.getBig r ∨
      ({ s.resetRegs with mem := m, rst := b } : State).getBig r = List.replicate s.cfg.nw 0 := by
  cases r
  case E => exact .inl rfl
  all_goals exact .inr rfl

/-- The host's turn is a write of one word of register `r` of an idle block, which stays idle. -/
def WritesWord (s t : State) (r : BigName) : Prop :=
  r.hostWritable = true ∧ s.busy = false ∧ t.busy = false ∧
    ∃ i v, s.NextWrite (.big r i) v ∧ t.getBig r = (s.getBig r).set i v

/-- The host's turn is SRESET, which zeroes register `r`. -/
def ResetsReg (s t : State) (r : BigName) : Prop :=
  t.ctrl = .idle ∧ t.getBig r = List.replicate s.cfg.nw 0 ∧
    ∃ v, s.NextWrite .cmd v ∧ decode v = .sreset

theorem writeLoc_getBig (s : State) (l : Loc) (v : Word) (r : BigName) :
    (s.writeLoc l v).getBig r = s.getBig r ∨
      ∃ i, l = .big r i ∧ r.hostWritable = true ∧ s.busy = false ∧ (s.writeLoc l v).busy = false ∧
        (s.writeLoc l v).getBig r = (s.getBig r).set i v := by
  rcases writeLoc_cases s l v with he | ⟨hb, he | he | ⟨r', i, hl, hw, he⟩ | ⟨b, j, -, he⟩⟩
  · rw [he]; exact .inl rfl
  · rw [he]; exact .inl rfl
  · rw [he]; exact .inl rfl
  · rw [he, getBig_setBig]
    split
    · rename_i hr
      obtain ⟨rfl, -⟩ := hr
      refine .inr ⟨i, hl, hw, hb, ?_, rfl⟩
      rw [busy_eq_false_iff, setBig_ctrl]
      exact (busy_eq_false_iff s).mp hb
    · exact .inl rfl
  · obtain ⟨m, hm, -⟩ := writeBufWord_spec s b j v
    rw [he, hm]; exact .inl rfl

/-- An accepted command changes a register only by SRESET. -/
theorem Accepts.getBig {i : Instr} {s t : State} (h : Accepts i s t) (r : BigName) :
    t.getBig r = s.getBig r ∨
      (i = .sreset ∧ t.ctrl = .idle ∧ t.getBig r = List.replicate s.cfg.nw 0) := by
  rcases h with ⟨hi, rfl⟩ | ⟨-, -, rfl⟩ | ⟨c, hc, -, rfl⟩
  · exact (getBig_reset s s.abortedMem s.rst r).imp_right fun h0 => ⟨hi, rfl, h0⟩
  · exact .inl rfl
  · cases i <;> cases hc <;> exact .inl rfl

theorem hostTurn_getBig {s t : State} (h : hostTurn s = .next t) (r : BigName) :
    t.getBig r = s.getBig r ∨ ResetsReg s t r ∨ WritesWord s t r := by
  rcases hostTurn_cases h with hq | ⟨a, l, v, rest, s0, hh, -, hb, hw, h4, hl, hq, -, hx⟩
  · rw [hq]; exact .inl rfl
  · have hnext : s.NextWrite l v := ⟨a, rest, hh, hb, hw, h4, hl⟩
    have hbig : s0.getBig r = s.getBig r := by rw [hq]; rfl
    have hcfg : s0.cfg = s.cfg := hq.cfg_eq
    have hbusy : s0.busy = s.busy := by rw [hq]; rfl
    rw [← hbig]
    rcases writeHost_cases hx with ⟨rfl, he⟩ | ⟨-, rfl⟩
    · rcases exec_effect he with hrej | ha
      · rw [hrej]; exact .inl rfl
      · rcases ha.getBig r with he | ⟨hi, hidle, h0⟩
        · exact .inl he
        · exact .inr (.inl ⟨hidle, hcfg ▸ h0, v, hnext, hi⟩)
    · rcases writeLoc_getBig s0 l v r with he | ⟨i, rfl, hwr, hidle, hidle', hset⟩
      · exact .inl he
      · exact .inr (.inr ⟨hwr, hbusy ▸ hidle, hidle', i, v, hnext, hbig ▸ hset⟩)

theorem controllerTurn_getBig {s t : State} (h : controllerTurn s = .next t) : WritesOwn s t := by
  rcases controllerTurn_effect h with hg | ⟨-, c, pos, rfl⟩ | hc
  · exact hg.writes
  · exact .none fun _ => rfl
  · exact hc.writes

theorem takePrime_getBig (e : Bool) (r : Nat) (s : State) : WritesOwn s (takePrime e r s) := by
  rcases takePrime_effect e r s with hg | ⟨-, c, pos, he⟩
  · exact hg.writes
  · rw [he]; exact .none fun _ => rfl

/-- The host's write of a step replaces a word of `r`, of a block that is idle before or after. -/
def HostWrote (s t : State) (r : BigName) : Prop :=
  (s.busy = false ∨ t.busy = false) ∧
    ∃ i v, s.HostWrites (.big r i) v ∧ t.getBig r = (s.getBig r).set i v

/-- Everything that a step can do to a big-integer register. -/
theorem step_getBig {s t : State} (h : step s = .next t) (r : BigName) :
    t.getBig r = s.getBig r ∨ (s.Resets ∧ t.getBig r = List.replicate s.cfg.nw 0) ∨
      (r.hostWritable = true ∧ HostWrote s t r) ∨ BlockWrites s.ctrl r := by
  obtain ⟨s', hs, hc⟩ := step_cases h
  generalize s'.turns = ts at hs
  subst hs
  rcases hc with ⟨hm, h1⟩ | h1 | ⟨hm, hr, u, h1, h2⟩ | ⟨hm, -, u, v, h1, h2, rfl⟩ | ⟨w, -, rfl⟩ |
    ⟨e, p, -, rfl⟩ | rfl | rfl | ⟨hr, rfl⟩
  · rcases hostTurn_getBig h1 r with he | ⟨-, h0, v, hw, hv⟩ | ⟨hwr, hb, -, i, v, hw, hset⟩
    · exact .inl he
    · exact .inr (.inl ⟨.inr ⟨v, ⟨hm, hw⟩, hv⟩, h0⟩)
    · exact .inr (.inr (.inl ⟨hwr, .inl hb, i, v, ⟨hm, hw⟩, hset⟩))
  · exact (controllerTurn_getBig h1 r).imp_right fun hb => .inr (.inr hb)
  · have hb := busy_of_controllerReady hr
    rcases hostTurn_getBig h1 r with he | ⟨hi, h0, v, hw, hv⟩ | ⟨-, hb', -⟩
    · rcases hostTurn_effect_of_busy hb h1 with hp | ⟨v, s0, -, -, -, rfl⟩
      · have hk : u.ctrl = s.ctrl := by rw [hp.frame]
        have hown := controllerTurn_getBig h2 r
        rw [he, hk] at hown
        exact hown.imp_right fun hb => .inr (.inr hb)
      · rw [controllerTurn_of_idle rfl h2]; exact .inl he
    · rw [controllerTurn_of_idle hi h2]
      exact .inr (.inl ⟨.inr ⟨v, ⟨hm, hw⟩, hv⟩, h0⟩)
    · cases hb.symm.trans hb'
  · have hk := (controllerTurn_keeps h1).1
    have hnext {l : Loc} {w : Word} (hw : u.NextWrite l w) : s.HostWrites l w :=
      ⟨hm, (nextWrite_congr hk.host hk.cfg l w).mp hw⟩
    have hwin : (setWins { s with turns := ts } u v).getBig r = v.getBig r ∧
        (setWins { s with turns := ts } u v).busy = v.busy := by
      rw [setWins_frame]; exact ⟨rfl, rfl⟩
    obtain ⟨hbig, hbusy⟩ := hwin
    unfold HostWrote
    rw [hbig, hbusy]
    rcases controllerTurn_getBig h1 r with hu | hb
    · have hu : u.getBig r = s.getBig r := hu
      rcases hostTurn_getBig h2 r with he | ⟨-, h0, w, hw, hv⟩ | ⟨hwr, -, hb, i, w, hw, hset⟩
      · exact .inl (he.trans hu)
      · exact .inr (.inl ⟨.inr ⟨w, hnext hw, hv⟩, by rw [h0, hk.cfg]⟩)
      · exact .inr (.inr (.inl ⟨hwr, .inr hb, i, w, hnext hw, hu ▸ hset⟩))
    · exact .inr (.inr (.inr hb))
  · exact ((takeWord_goesOn w _).writes r).imp_right fun hb => .inr (.inr hb)
  · exact (takePrime_getBig e p _ r).imp_right fun hb => .inr (.inr hb)
  · exact .inl rfl
  · exact .inl rfl
  · exact (getBig_reset { s with turns := ts } [] false r).imp_right fun h0 => .inl ⟨.inl hr, h0⟩

/-- Settles O49: Table T10.3 register by register. -/
theorem registersChangeOnlyByTheirWriters : Obligations.RegistersChangeOnlyByTheirWriters := by
  intro s t h r hne
  rcases step_getBig h r with he | hreset | ⟨hwr, hhost⟩ | hown
  · exact absurd he hne
  · exact .inl hreset
  · refine .inr ?_
    cases r
    case A | B => exact hhost
    case P | Q => exact .inl hhost
    all_goals cases hwr
  · refine .inr ?_
    cases r
    case A | B | E => exact hown.elim
    case P | Q => exact .inr hown
    all_goals exact hown

end Sys2Proof.Machine
end

section
/-!
Where a step stops (spec/10_state.md R52; spec/60_exceptions.md R269; notes/assumptions/9.md, 10.md):
only the controller's turn faults, and only the host's turn is refused.
-/

namespace Sys2Proof.Machine

/-- ENCODE or DECODE reads a byte whose written mark is clear. -/
def UnwrittenRead (s : State) (e : Fault) : Prop :=
  ∃ off, e = .uninitRead off ∧ s.mem.read off = none ∧
    (s.ctrl.command = some .encode ∨ s.ctrl.command = some .decode)

/-- The host's next operation is an access outside the window, or one under reset. -/
def HostRefused (s : State) (e : Refusal) : Prop :=
  (e = .outsideWindow ∧ ∃ a rest, s.host = .access a :: rest ∧
    (a.addr < s.cfg.base ∨ s.cfg.base + 0x4000 ≤ a.addr)) ∨
  (e = .accessInReset ∧ s.rst = true ∧ ∃ op rest, s.host = op :: rest ∧ op ≠ .waitIrq)

/-- The scan stops at an unwritten byte. -/
theorem scanDigits_unwritten {l : List (Option Byte)} {j k : Nat} (h : scanDigits j l = .unwritten k) :
    ∃ i, k = j + i ∧ l[i]? = some none := by
  induction l generalizing j with
  | nil => cases h
  | cons o l ih =>
    cases o with
    | none => cases h; exact ⟨0, rfl, rfl⟩
    | some b =>
      simp only [scanDigits] at h
      split at h
      · split at h
        · cases h
        · obtain ⟨i, rfl, hi⟩ := ih h
          exact ⟨i + 1, by omega, hi⟩
      · cases h

/-- A buffer byte that reads as unwritten has a clear written mark. -/
theorem read_of_bufBytes_none {s : State} {b : Buf} {n i : Nat}
    (h : (s.bufBytes b n)[i]? = some none) : s.mem.read (b.offset + i) = none := by
  rw [State.bufBytes, Memory.getElem?_readBytes] at h
  split at h
  · exact Option.some.inj h
  · cases h

theorem encodeFinish_fault {s : State} {filler : List Byte} {e : Fault}
    (hk : s.ctrl = .enRun (some filler)) (h : encodeFinish filler s = .fault e) :
    UnwrittenRead s e := by
  unfold encodeFinish at h
  split at h <;> cases h
  obtain ⟨i, rfl, hi⟩ := commandRead_error ‹_›
  exact ⟨_, rfl, read_of_bufBytes_none hi, .inl (by rw [hk]; rfl)⟩

theorem decodeRun_fault {s : State} {e : Fault} (hk : s.ctrl = .deRun)
    (h : decodeRun s = .fault e) : UnwrittenRead s e := by
  simp only [decodeRun] at h
  split at h
  · cases h
  · split at h
    · cases h
      obtain ⟨i, rfl, hi⟩ := scanDigits_unwritten ‹_›
      rw [Nat.zero_add]
      exact ⟨_, rfl, read_of_bufBytes_none hi, .inr (by rw [hk]; rfl)⟩
    · cases h
    · split at h <;> cases h

theorem controllerTurn_fault {s : State} {e : Fault} (h : controllerTurn s = .fault e) :
    UnwrittenRead s e := by
  unfold controllerTurn at h
  split at h
  · cases h
  · unfold controllerStep at h
    split at h
    case h_14 hk =>
      split at h
      · cases h
      · exact encodeFinish_fault hk h
    case h_15 hk => exact decodeRun_fault hk h
    all_goals cases h

theorem controllerTurn_not_refused {s : State} {e : Refusal} : controllerTurn s ≠ .refused e := by
  intro h
  unfold controllerTurn at h
  split at h
  · cases h
  · unfold controllerStep at h
    split at h
    case h_14 =>
      split at h
      · cases h
      · unfold encodeFinish at h; split at h <;> cases h
    case h_15 =>
      simp only [decodeRun] at h
      split at h
      · cases h
      · split at h
        case h_3 => split at h <;> cases h
        all_goals cases h
    all_goals cases h

theorem busAccess_not_fault {a : Access} {s : State} {e : Fault} : busAccess a s ≠ .fault e := by
  intro h
  unfold busAccess at h
  split_ifs at h
  cases a with
  | read ad size => simp only [accessAt] at h; split at h <;> cases h
  | write ad size strobes v =>
    simp only [accessAt] at h
    split at h
    · rename_i l _
      obtain ⟨t, ht⟩ := writeHost_next l v (s.okay none)
      cases ht.symm.trans h
    · cases h

theorem hostTurn_not_fault {s : State} {e : Fault} : hostTurn s ≠ .fault e := by
  intro h
  unfold hostTurn at h
  split at h
  · cases h
  · exact busAccess_not_fault h
  · exact busAccess_not_fault h
  · cases h

theorem andThen_fault {r : Result} {f : State → Result} {e : Fault} (h : andThen r f = .fault e) :
    r = .fault e ∨ ∃ u, r = .next u ∧ f u = .fault e := by
  cases r with
  | next u => exact .inr ⟨u, rfl, h⟩
  | fault e' => cases h; exact .inl rfl
  | refused e' => cases h

theorem andThen_refused {r : Result} {f : State → Result} {e : Refusal}
    (h : andThen r f = .refused e) : r = .refused e ∨ ∃ u, r = .next u ∧ f u = .refused e := by
  cases r with
  | next u => exact .inr ⟨u, rfl, h⟩
  | fault e' => cases h
  | refused e' => cases h; exact .inl rfl

theorem together_fault {b : Bool} {s : State} {e : Fault} (h : together b s = .fault e) :
    UnwrittenRead s e := by
  unfold together at h
  split at h
  · exact absurd h hostTurn_not_fault
  · rename_i hr
    split at h
    · rcases andThen_fault h with h | ⟨u, h1, h2⟩
      · exact absurd h hostTurn_not_fault
      · have hb := busy_of_controllerReady (s := s) (by simpa using hr)
        have hu := controllerTurn_fault h2
        rcases hostTurn_effect_of_busy hb h1 with hp | ⟨v, s0, -, -, -, rfl⟩
        · obtain ⟨-, -, -, -, hm⟩ := hp.operands hb
          have hk : u.ctrl = s.ctrl := by rw [hp.frame]
          simpa only [UnwrittenRead, hm, hk] using hu
        · obtain ⟨_, -, -, hk⟩ := hu
          simp [Ctrl.command] at hk
    · rcases andThen_fault h with h | ⟨c, -, h2⟩
      · exact controllerTurn_fault h
      · rcases andThen_fault h2 with h | ⟨u, -, h4⟩
        · exact absurd h hostTurn_not_fault
        · cases h4

theorem together_refused {b : Bool} {s : State} {e : Refusal} (h : together b s = .refused e) :
    HostRefused s e := by
  unfold together at h
  split at h
  · exact hostTurn_refused h
  · split at h
    · rcases andThen_refused h with h | ⟨u, -, h2⟩
      · exact hostTurn_refused h
      · exact absurd h2 controllerTurn_not_refused
    · rcases andThen_refused h with h | ⟨c, h1, h2⟩
      · exact absurd h controllerTurn_not_refused
      · rcases andThen_refused h2 with h | ⟨u, -, h4⟩
        · have hk := (controllerTurn_keeps h1).1
          have hc : HostRefused c e := hostTurn_refused h
          simpa only [HostRefused, hk.host, hk.cfg, hk.rst] using hc
        · cases h4

theorem takeTurn_fault {turn : Turn} {s : State} {e : Fault} (h : takeTurn turn s = .fault e) :
    UnwrittenRead s e := by
  cases turn with
  | host => exact absurd h hostTurn_not_fault
  | controller => exact controllerTurn_fault h
  | together b => exact together_fault h
  | randomAnswer _ _ | primeAnswer _ _ _ | assertReset | releaseReset => cases h

theorem takeTurn_refused {turn : Turn} {s : State} {e : Refusal} (h : takeTurn turn s = .refused e) :
    (turn = .host ∨ ∃ b, turn = .together b) ∧ HostRefused s e := by
  cases turn with
  | host => exact ⟨.inl rfl, hostTurn_refused h⟩
  | controller => exact absurd h controllerTurn_not_refused
  | together b => exact ⟨.inr ⟨b, rfl⟩, together_refused h⟩
  | randomAnswer _ _ | primeAnswer _ _ _ | assertReset | releaseReset => cases h

/-- Settles O52: a step is the first planned turn, or the default one. -/
theorem stopsOnlyWhereDeclared : Obligations.StopsOnlyWhereDeclared := by
  intro s _
  refine ⟨fun e h => ?_, fun e h => ?_⟩ <;> unfold step nextMove at h <;> split at h
  · have hf : UnwrittenRead { s with turns := _ } e := takeTurn_fault h
    exact hf
  · exact takeTurn_fault h
  · rename_i turn ts hts
    obtain ⟨ht, hr⟩ := takeTurn_refused h
    refine ⟨?_, hr⟩
    rcases ht with rfl | ⟨b, rfl⟩ <;> simp [State.HostMoves, hts]
  · rename_i hts
    obtain ⟨ht, hr⟩ := takeTurn_refused h
    refine ⟨?_, hr⟩
    simp only [State.HostMoves, hts]
    by_contra hready
    simp [State.defaultTurn, Bool.eq_true_of_not_eq_false hready] at ht

end Sys2Proof.Machine
end

section
/-!
The map of the window (spec/10_state.md Table T10.1; spec/20_memory.md R76): where a location stands, and
which offsets are reserved.
-/

namespace Sys2Proof.Machine

/-! ## The windows of 0x400 bytes -/

theorem offset_of_controlAt {i : Nat} {l : Loc} (h : controlAt i = some l) : l.offset = 4 * i := by
  unfold controlAt at h
  split at h <;> cases h <;> rfl

theorem offset_of_bigAt {k : Nat} {r : BigName} (h : bigAt k = some r) : r.offset = 0x400 * k := by
  unfold bigAt at h
  split at h <;> cases h <;> rfl

theorem offset_of_bufAt {k : Nat} {b : Buf} (h : bufAt k = some b) : b.offset = 0x400 * k := by
  unfold bufAt at h
  split at h <;> cases h <;> rfl

theorem controlAt_eq_none_iff {i : Nat} : controlAt i = none ↔ 11 ≤ i := by
  refine ⟨fun h => ?_, fun h => ?_⟩
  · by_contra hi
    have hi : i < 11 := Nat.lt_of_not_le hi
    interval_cases i <;> cases h
  · obtain ⟨k, rfl⟩ := Nat.exists_eq_add_of_le' h
    rfl

/-- Each big-integer register has a window, which is not window 0 of the control registers. -/
theorem exists_window_of_big (r : BigName) : ∃ k, bigAt k = some r ∧ 1 ≤ k :=
  ⟨r.offset / 0x400, by cases r <;> exact ⟨rfl, by decide⟩⟩

/-- Each of the windows 1 to 11 is a big-integer register's. -/
theorem exists_bigAt {k : Nat} (h : 1 ≤ k ∧ k ≤ 11) : ∃ r, bigAt k = some r := by
  obtain ⟨h1, h11⟩ := h
  interval_cases k <;> exact ⟨_, rfl⟩

/-- Each buffer has a window, where no register stands. -/
theorem exists_window_of_buf (b : Buf) : ∃ k, bufAt k = some b ∧ bigAt k = none ∧ 1 ≤ k :=
  ⟨b.offset / 0x400, by cases b <;> exact ⟨rfl, rfl, by decide⟩⟩

/-! ## The location at an offset -/

theorem locate_of_control {c : Config} {off : Nat} (h : off < 0x400) :
    locate c off = controlAt (off / 4) := by
  rw [locate, if_pos (by omega), Nat.mod_eq_of_lt h]

theorem locate_of_bigAt {c : Config} {off k : Nat} {r : BigName} (hk : off / 0x400 = k)
    (h : bigAt k = some r) (h1 : 1 ≤ k) :
    locate c off =
      if off % 0x400 / 4 < c.nw then some (.big r (off % 0x400 / 4)) else none := by
  rw [locate, if_neg (by omega), hk, h]

theorem locate_of_bufAt {c : Config} {off k : Nat} {b : Buf} (hk : off / 0x400 = k)
    (h : bufAt k = some b) (hn : bigAt k = none) (h1 : 1 ≤ k) :
    locate c off =
      if off % 0x400 / 4 < b.words c then some (.buf b (off % 0x400 / 4)) else none := by
  rw [locate, if_neg (by omega), hk, h, hn]

/-- An aligned offset is the offset of what stands there. -/
theorem offset_of_locate {c : Config} {off : Nat} {l : Loc} (h : locate c off = some l)
    (h4 : off % 4 = 0) : l.offset = off := by
  simp only [locate] at h
  split at h
  · have hl := offset_of_controlAt h
    omega
  · split at h
    · rename_i hr
      have hr := offset_of_bigAt hr
      split at h <;> cases h
      simp only [Loc.offset]
      omega
    · rename_i b _ hb
      have hb := offset_of_bufAt hb
      split at h <;> cases h
      simp only [Loc.offset]
      omega
    · cases h

/-- The offsets of the window where nothing stands are those of R76's list. -/
theorem locate_eq_none_iff {c : Config} {off : Nat} (h : off < 0x4000) :
    locate c off = none ↔ ReservedOffset c off := by
  have hsplit : off / 0x400 = 0 ∨ (1 ≤ off / 0x400 ∧ off / 0x400 ≤ 11) ∨ off / 0x400 = 12 ∨
      off / 0x400 = 13 ∨ 14 ≤ off / 0x400 := by omega
  rcases hsplit with hk | hk | hk | hk | hk
  · rw [locate_of_control (by omega), controlAt_eq_none_iff, ReservedOffset]
    omega
  · obtain ⟨r, hr⟩ := exists_bigAt hk
    rw [locate_of_bigAt rfl hr hk.1, ite_eq_right_iff, ReservedOffset]
    simp only [reduceCtorEq, imp_false]
    omega
  · rw [locate_of_bufAt hk (b := .msg) rfl rfl (by decide), ite_eq_right_iff, ReservedOffset]
    simp only [reduceCtorEq, imp_false, Buf.words, Config.msgWords]
    omega
  · rw [locate_of_bufAt hk (b := .blk) rfl rfl (by decide), ite_eq_right_iff, ReservedOffset]
    simp only [reduceCtorEq, imp_false, Buf.words, Config.blkWords]
    omega
  · have hk' : off / 0x400 = 14 ∨ off / 0x400 = 15 := by omega
    have hnone : locate c off = none := by
      rcases hk' with hk' | hk' <;> simp [locate, hk', bigAt, bufAt]
    rw [ReservedOffset]
    exact iff_of_true hnone (by omega)

/-- A legal K lets every register and buffer fit its window of 256 words. -/
theorem words_le_of_wf {c : Config} (h : c.wf = true) :
    c.nw ≤ 256 ∧ ∀ b : Buf, b.words c ≤ 256 := by
  obtain ⟨k, -, hk, hK⟩ := keyBits_of_wf h
  refine ⟨by rw [Config.nw]; omega, fun b => ?_⟩
  cases b
  · simp only [Buf.words, Config.msgWords, Config.lmax, Config.dcap]; omega
  · simp only [Buf.words, Config.blkWords, Config.dcap]; omega

/-- Word `i` of a big-integer register stands at its window's offset plus 4·i. -/
theorem locate_big {c : Config} (h : c.wf = true) (r : BigName) {i : Nat} (hi : i < c.nw) :
    locate c (r.offset + 4 * i) = some (.big r i) := by
  have hnw := (words_le_of_wf h).1
  obtain ⟨k, hk, h1⟩ := exists_window_of_big r
  have hoff := offset_of_bigAt hk
  have hword : (r.offset + 4 * i) % 0x400 / 4 = i := by omega
  rw [locate_of_bigAt (by omega) hk h1, hword, if_pos hi]

/-- Word `j` of a buffer stands at its window's offset plus 4·j. -/
theorem locate_buf {c : Config} (h : c.wf = true) (b : Buf) {j : Nat} (hj : j < b.words c) :
    locate c (b.offset + 4 * j) = some (.buf b j) := by
  have hwords := (words_le_of_wf h).2 b
  obtain ⟨k, hk, hn, h1⟩ := exists_window_of_buf b
  have hoff := offset_of_bufAt hk
  have hword : (b.offset + 4 * j) % 0x400 / 4 = j := by omega
  rw [locate_of_bufAt (by omega) hk hn h1, hword, if_pos hj]

end Sys2Proof.Machine
end

section
/-!
One bus access of the host (spec/20_memory.md R74, R75, R77, R79): the response to an illegal access, the
effect of a legal one, and what a write to a read-only place leaves.
-/

namespace Sys2Proof.Machine

/-! ## An access inside the window -/

theorem busAccess_of_inside {s : State} {a : Access} {off : Nat} (ha : a.addr = s.cfg.base + off)
    (hr : s.rst = false) (ho : off < 0x4000) : busAccess a s = accessAt a off s := by
  have hwin : s.cfg.base ≤ a.addr ∧ a.addr < s.cfg.base + windowSize := by
    rw [windowSize]; omega
  rw [busAccess, hr, if_neg (by decide), if_pos hwin, ha, Nat.add_sub_cancel_left]

/-- A misaligned or narrow access, or one to a reserved location, has no location (R75). -/
theorem accessLoc_eq_none {c : Config} {off size : Nat} {strobes : BitVec 4} (ho : off < 0x4000)
    (h : off % 4 ≠ 0 ∨ size ≠ 32 ∨ strobes ≠ 0xF#4 ∨ ReservedOffset c off) :
    accessLoc c off size strobes = none := by
  unfold accessLoc
  split
  · rename_i hlegal
    obtain ⟨h4, hsize, hstrobes⟩ := hlegal
    rcases h with h | h | h | h
    · exact absurd h4 h
    · exact absurd hsize h
    · exact absurd hstrobes h
    · exact (locate_eq_none_iff ho).mpr h
  · rfl

theorem accessLoc_of_aligned (c : Config) {off : Nat} (h4 : off % 4 = 0) :
    accessLoc c off 32 0xF#4 = locate c off := if_pos ⟨h4, rfl, rfl⟩

theorem busAccess_read {s : State} {off : Nat} {l : Loc} (hr : s.rst = false) (ho : off < 0x4000)
    (h4 : off % 4 = 0) (hl : locate s.cfg off = some l) :
    busAccess (.read (s.cfg.base + off) 32) s =
      .next ((s.afterRead l).okay (some (s.readLoc l))) := by
  rw [busAccess_of_inside rfl hr ho]
  simp only [accessAt, accessLoc_of_aligned _ h4, hl]

theorem busAccess_write {s : State} {off : Nat} {l : Loc} (v : Word) (hr : s.rst = false)
    (ho : off < 0x4000) (h4 : off % 4 = 0) (hl : locate s.cfg off = some l) :
    busAccess (.write (s.cfg.base + off) 32 0xF#4 v) s = writeHost l v (s.okay none) := by
  rw [busAccess_of_inside rfl hr ho]
  simp only [accessAt, accessLoc_of_aligned _ h4, hl]

/-- Settles O4: an illegal access has no location, whichever of R75's conditions it meets. -/
theorem illegalAccessGetsError : Obligations.IllegalAccessGetsError := by
  refine fun s off hr ho => ⟨fun size h => ?_, fun size strobes v h => ?_⟩
  · have hnone : accessLoc s.cfg off size 0xF#4 = none :=
      accessLoc_eq_none ho (h.imp_right (Or.imp_right .inr))
    rw [busAccess_of_inside rfl hr ho]
    simp only [accessAt, hnone, State.busError]
  · rw [busAccess_of_inside rfl hr ho]
    simp only [accessAt, accessLoc_eq_none ho h, State.busError]

/-! ## Reads -/

theorem afterRead_eq (s : State) (l : Loc) :
    s.afterRead l = { s with draws := if s.readDraws l then s.draws + 1 else s.draws } := by
  unfold State.afterRead
  split <;> rfl

/-- A read that is answered gets a location's value with OKAY, or 0 with ERROR. -/
theorem busAccess_read_cases {s t : State} {addr size : Nat}
    (h : busAccess (.read addr size) s = .next t) :
    (∃ l, t = (s.afterRead l).okay (some (s.readLoc l))) ∨ t = s.busError (some 0) := by
  unfold busAccess at h
  split_ifs at h
  simp only [accessAt] at h
  split at h <;> cases h
  · exact .inl ⟨_, rfl⟩
  · exact .inr rfl

/-- Settles O8: OKAY keeps BUSERR and ERROR sets it. -/
theorem readsHaveNoSideEffect : Obligations.ReadsHaveNoSideEffect := by
  intro s t addr size h
  rcases busAccess_read_cases h with ⟨l, rfl⟩ | rfl
  · refine ⟨⟨true, some (s.readLoc l)⟩, ?_⟩
    simp [afterRead_eq, State.okay]
  · refine ⟨⟨false, some 0⟩, ?_⟩
    simp [State.busError]

/-- Settles O5: what is not reserved has a location, and a location has one offset. -/
theorem legalAccessReachesItsRegister : Obligations.LegalAccessReachesItsRegister := by
  refine ⟨fun s off _ hr ho h4 hres => ?_, fun c => ?_, fun c hc p hp i hi => ?_, fun c hc =>
    ⟨fun j hj => locate_buf hc .msg hj, fun j hj => locate_buf hc .blk hj⟩⟩
  · obtain ⟨l, hl⟩ := Option.ne_none_iff_exists'.mp (mt (locate_eq_none_iff ho).mp hres)
    refine ⟨l, offset_of_locate hl h4, hl, fun l' hl' hoff => ?_, ?_, fun v => ?_⟩
    · rw [hoff, hl] at hl'
      exact (Option.some.inj hl').symm
    · rw [busAccess_read hr ho h4 hl, afterRead_eq, State.okay]
    · exact busAccess_write v hr ho h4 hl
  · simp [locate, controlAt]
  · have hoff : p.1 = p.2.offset := by
      revert p
      decide
    rw [hoff]
    exact locate_big hc p.2 hi

/-! ## Writes to read-only registers and fields -/

theorem writeHost_readOnly {l : Loc} (v : Word) (s : State)
    (h : l ∈ [.id, .param, .errPos, .iterCnt, .retryCnt] ∨
      ∃ r i, l = .big r i ∧ r ∈ [BigName.X, .Y, .G, .N, .PHI, .D, .E]) :
    writeHost l v s = .next s := by
  rcases h with h | ⟨r, i, rfl, hr⟩
  · simp only [List.mem_cons, List.not_mem_nil, or_false] at h
    rcases h with rfl | rfl | rfl | rfl | rfl <;> rfl
  · have hw : r.hostWritable = false := by
      revert r
      decide
    simp [writeHost, State.writeLoc, hw]

/-- A length register takes the low half of the word, and no more of it (spec/10_state.md R34, R35). -/
theorem writeLoc_length_congr {l : Loc} {v v' : Word} (s : State) (hl : l ∈ [.msgLen, .blkLen])
    (h : v'.extractLsb' 0 16 = v.extractLsb' 0 16) : s.writeLoc l v' = s.writeLoc l v := by
  have hlow : v'.setWidth 16 = v.setWidth 16 := by
    rw [BitVec.setWidth_eq_extractLsb' (by decide), h, BitVec.setWidth_eq_extractLsb' (by decide)]
  simp only [List.mem_cons, List.not_mem_nil, or_false] at hl
  rcases hl with rfl | rfl <;> simp only [State.writeLoc, hlow]

theorem writeLane_congr {v v' : Word} (s : State) (b : Buf) (j lane : Nat)
    (h : 4 * j + lane < b.size s.cfg → laneByte v' lane = laneByte v lane) :
    s.writeLane b j lane v' = s.writeLane b j lane v := by
  simp only [State.writeLane]
  split
  · rw [h ‹_›]
  · rfl

theorem writeLane_cfg (s : State) (b : Buf) (j lane : Nat) (v : Word) :
    (s.writeLane b j lane v).cfg = s.cfg := by
  obtain ⟨m, hm, -⟩ := writeLane_spec s b j lane v
  rw [hm]

/-- A buffer takes the lanes that lie in it, and no more of the word (R77; spec/10_state.md R48). -/
theorem writeBufWord_congr {v v' : Word} (s : State) (b : Buf) (j : Nat)
    (h : ∀ lane, lane < 4 → 4 * j + lane < b.size s.cfg → laneByte v' lane = laneByte v lane) :
    s.writeBufWord b j v' = s.writeBufWord b j v := by
  unfold State.writeBufWord
  rw [writeLane_congr s b j 0 (h 0 (by decide)), writeLane_congr _ b j 1, writeLane_congr _ b j 2,
    writeLane_congr _ b j 3]
  all_goals
    simp only [writeLane_cfg]
    exact h _ (by decide)

/-- A write to an operand register or buffer leaves BUSERR and the responses. -/
theorem writeLoc_keeps_response {l : Loc} (s : State) (v : Word)
    (h : l ∈ [.msgLen, .blkLen] ∨ ∃ b j, l = .buf b j) :
    (s.writeLoc l v).busErr = s.busErr ∧ (s.writeLoc l v).trace = s.trace := by
  rcases h with h | ⟨b, j, rfl⟩
  · simp only [List.mem_cons, List.not_mem_nil, or_false] at h
    rcases h with rfl | rfl <;> simp only [State.writeLoc, State.writeOperand] <;> split <;>
      exact ⟨rfl, rfl⟩
  · obtain ⟨m, hm, -⟩ := writeBufWord_spec s b j v
    simp only [State.writeLoc, State.writeOperand, hm]
    split <;> exact ⟨rfl, rfl⟩

/-- Settles O9: what a write stores does not depend on the bits of a read-only field. -/
theorem readOnlyWritesIgnored : Obligations.ReadOnlyWritesIgnored := by
  intro s off l v hr _ ho h4 hl write
  have hwrite (v : Word) : write v = writeHost l v (s.okay none) := busAccess_write v hr ho h4 hl
  refine ⟨fun h => ?_, fun h => ?_, fun h => ?_, fun j h => ?_⟩
  · rw [hwrite]
    exact writeHost_readOnly v _ h
  · subst h
    refine ⟨_, hwrite v, fun hb => ?_, rfl⟩
    exact (Bool.and_eq_true_iff.mp hb).1
  · have hnext (v : Word) : write v = .next ((s.okay none).writeLoc l v) := by
      rw [hwrite]
      simp only [List.mem_cons, List.not_mem_nil, or_false] at h
      rcases h with rfl | rfl <;> rfl
    obtain ⟨hb, ht⟩ := writeLoc_keeps_response (s.okay none) v (.inl h)
    exact ⟨_, hnext v, hb, ht, fun v' hv => by rw [hnext, writeLoc_length_congr _ h hv]⟩
  · subst h
    obtain ⟨hb, ht⟩ := writeLoc_keeps_response (s.okay none) v (.inr ⟨.msg, j, rfl⟩)
    refine ⟨_, hwrite v, hb, ht, fun v' hv => (hwrite v').trans ?_⟩
    have hword : (s.okay none).writeBufWord .msg j v' = (s.okay none).writeBufWord .msg j v :=
      writeBufWord_congr _ .msg j hv
    simp only [writeHost, State.writeLoc, State.writeOperand, hword]

end Sys2Proof.Machine
end

section
/-!
The words of the big-integer registers and the bytes of the buffers (spec/20_memory.md R71, R72): what a
host write sets, and what a read returns of it.
-/

namespace Sys2Proof.Machine

/-! ## Big-integer registers -/

/-- Bit `j` of a register's value is bit `j mod 32` of word `j div 32` (R71). -/
theorem testBit_value (ws : BigReg) (j : Nat) :
    (BigReg.value ws).testBit j = (ws.getD (j / 32) 0).getLsbD (j % 32) := by
  induction ws generalizing j with
  | nil => simp [BigReg.value]
  | cons w ws ih =>
    rw [BigReg.value, Nat.add_comm, Nat.testBit_two_pow_mul_add _ w.isLt]
    split
    · rename_i hj
      rw [Nat.div_eq_of_lt hj, Nat.mod_eq_of_lt hj, List.getD_cons_zero, BitVec.testBit_toNat]
    · rename_i hj
      have hdiv : j / 32 = (j - 32) / 32 + 1 := by omega
      have hmod : j % 32 = (j - 32) % 32 := by omega
      rw [ih, hdiv, hmod, List.getD_cons_succ]

/-- Replacing word `i` replaces bits [32·i+31 : 32·i] of the value. -/
theorem testBit_value_set {ws : BigReg} {i : Nat} (v : Word) (hi : i < ws.length) (j : Nat) :
    (BigReg.value (ws.set i v)).testBit j =
      if 32 * i ≤ j ∧ j < 32 * i + 32 then v.getLsbD (j - 32 * i)
      else (BigReg.value ws).testBit j := by
  rw [testBit_value, testBit_value]
  split
  · have hdiv : j / 32 = i := by omega
    have hmod : j % 32 = j - 32 * i := by omega
    rw [hdiv, hmod]
    simp [hi]
  · have hne : i ≠ j / 32 := by omega
    simp [hne]

theorem getBig_writeBigWord {r : BigName} (h : r.hostWritable = true) (s : State) (i : Nat) (v : Word) :
    (s.writeBigWord r i v).getBig r = (s.getBig r).set i v := by
  have hE : r ≠ .E := by rintro rfl; cases h
  rw [State.writeBigWord, getBig_setBig, if_pos ⟨rfl, hE⟩]

theorem writeHost_big_of_idle {s : State} {r : BigName} (hb : s.busy = false)
    (hw : r.hostWritable = true) (i : Nat) (v : Word) :
    writeHost (.big r i) v s = .next (s.writeBigWord r i v) := by
  simp [writeHost, State.writeLoc, State.writeOperand, hb, hw]

/-- Settles O6: word `i` of the value is entry `i` of the register. -/
theorem bigRegisterWordOrder : Obligations.BigRegisterWordOrder := by
  refine fun s r i hc hlen hi => ⟨locate_big hc r hi, fun hd j hj => ?_, fun hb hw v => ?_⟩
  · have hdiv : (32 * i + j) / 32 = i := by omega
    have hmod : (32 * i + j) % 32 = j := by omega
    rw [testBit_value, hdiv, hmod]
    simp [State.readLoc, hd]
  · have hbig := getBig_writeBigWord hw s i v
    refine ⟨_, writeHost_big_of_idle hb hw i v, fun j => ?_, ?_, ?_⟩
    · rw [hbig]
      exact testBit_value_set v ((hlen r).symm ▸ hi) j
    · rw [hbig, State.writeBigWord]
    · rw [hbig, List.length_set]
      exact hlen r

/-! ## Buffers -/

theorem read_writeLane (s : State) (b : Buf) (j lane : Nat) (v : Word) (a : Nat) :
    (s.writeLane b j lane v).mem.read a =
      if 4 * j + lane < b.size s.cfg ∧ a = b.offset + (4 * j + lane) then some (laneByte v lane)
      else s.mem.read a := by
  simp only [State.writeLane]
  by_cases hlt : 4 * j + lane < b.size s.cfg
  · simp only [hlt, if_true, true_and, Memory.read_write]
  · simp only [hlt, if_false, false_and]

/-- A lane inside the buffer goes to the byte of its own number (R72). -/
theorem read_writeBufWord_lane (s : State) (b : Buf) (j : Nat) (v : Word) {lane : Nat} (h : lane < 4)
    (hlt : 4 * j + lane < b.size s.cfg) :
    (s.writeBufWord b j v).mem.read (b.offset + (4 * j + lane)) = some (laneByte v lane) := by
  simp only [State.writeBufWord, read_writeLane, writeLane_cfg]
  interval_cases lane <;> simp only [hlt, Nat.add_left_cancel_iff, true_and, and_false, Nat.reduceEqDiff,
    reduceIte, OfNat.zero_ne_ofNat, zero_ne_one]

theorem read_writeBufWord_other (s : State) (b : Buf) (j : Nat) (v : Word) {a : Nat}
    (h : ∀ lane, lane < 4 → 4 * j + lane < b.size s.cfg → a ≠ b.offset + (4 * j + lane)) :
    (s.writeBufWord b j v).mem.read a = s.mem.read a := by
  have hlane {lane : Nat} (hl : lane < 4) :
      ¬(4 * j + lane < b.size s.cfg ∧ a = b.offset + (4 * j + lane)) := fun hc => h lane hl hc.1 hc.2
  simp only [State.writeBufWord, read_writeLane, writeLane_cfg]
  rw [if_neg (hlane (by decide)), if_neg (hlane (by decide)), if_neg (hlane (by decide)),
    if_neg (hlane (by decide))]

theorem readLoc_buf_of_idle {s : State} (hb : s.busy = false) (b : Buf) (j : Nat) :
    s.readLoc (.buf b j) = s.readBufWord b j := by
  simp [State.readLoc, isDestination_of_idle hb]

theorem writeHost_buf_of_idle {s : State} (hb : s.busy = false) (b : Buf) (j : Nat) (v : Word) :
    writeHost (.buf b j) v s = .next (s.writeBufWord b j v) := by
  simp [writeHost, State.writeLoc, State.writeOperand, hb]

theorem writeBufWord_frame (s : State) (b : Buf) (j : Nat) (v : Word) :
    s.writeBufWord b j v = { s with mem := (s.writeBufWord b j v).mem } := by
  obtain ⟨m, hm, -⟩ := writeBufWord_spec s b j v
  rw [hm]

/-- A lane reads back as it was written, and 0 beyond the buffer. -/
theorem readLane_writeBufWord (s : State) (b : Buf) (j : Nat) (v : Word) {lane : Nat} (h : lane < 4) :
    (s.writeBufWord b j v).readLane b j lane =
      if 4 * j + lane < b.size s.cfg then laneByte v lane else 0 := by
  have hcfg : (s.writeBufWord b j v).cfg = s.cfg := by rw [writeBufWord_frame]
  simp only [State.readLane, State.bufByte, hcfg]
  split
  · rw [read_writeBufWord_lane s b j v h ‹_›, Option.getD_some]
  · rfl

/-- Settles O7: the write is one lane write for each byte of the word, and a lane reads its own byte back. -/
theorem bufferByteOrder : Obligations.BufferByteOrder := by
  intro s b j v hc hb hj
  have hidle : (s.writeBufWord b j v).busy = false := by rw [writeBufWord_frame]; exact hb
  refine ⟨locate_buf hc b hj, _, writeHost_buf_of_idle hb b j v,
    fun lane => read_writeBufWord_lane s b j v, fun a => read_writeBufWord_other s b j v,
    writeBufWord_frame s b j v, fun lane hl => ?_⟩
  rw [readLoc_buf_of_idle hidle]
  exact (extractLsb'_wordOfLanes (State.readLane _ b j) hl).trans (readLane_writeBufWord s b j v hl)

end Sys2Proof.Machine
end

section
/-!
The command word (spec/30_encoding.md R100, R102, R103): `decodeOp` and `Instr.op` are inverse to each
other, and the decoder reads the OP field only.
-/

namespace Sys2Proof

theorem decodeOp_op (i : Instr) :
    decodeOp (i.op.getLsbD 3) (i.op.getLsbD 2) (i.op.getLsbD 1) (i.op.getLsbD 0) = i := by
  cases i <;> rfl

theorem op_decodeOp (n : BitVec 4) :
    (decodeOp (n.getLsbD 3) (n.getLsbD 2) (n.getLsbD 1) (n.getLsbD 0)).op = n := by
  revert n
  decide

/-- A word is a command exactly by its OP field. -/
theorem decode_eq_iff (w : Word) (i : Instr) : decode w = i ↔ w.extractLsb' 0 4 = i.op := by
  have hfield {k : Nat} (hk : k < 4) : w.getLsbD k = (w.extractLsb' 0 4).getLsbD k := by
    simp [BitVec.getLsbD_extractLsb', hk, -BitVec.getLsbD_eq_getElem]
  rw [decode, hfield (k := 3) (by decide), hfield (k := 2) (by decide), hfield (k := 1) (by decide),
    hfield (k := 0) (by decide)]
  constructor
  · rintro rfl
    exact (op_decodeOp _).symm
  · intro h
    rw [h, decodeOp_op]

theorem extractLsb'_encode (i : Instr) : (encode i).extractLsb' 0 4 = i.op := by
  rw [encode, ← BitVec.setWidth_eq_extractLsb' (by decide), BitVec.setWidth_setWidth_of_le _ (by decide),
    BitVec.setWidth_eq]

theorem decode_encode (i : Instr) : decode (encode i) = i :=
  (decode_eq_iff _ i).mpr (extractLsb'_encode i)

/-- Settles O2: the OP field decides, and an encoded command carries its own OP. -/
theorem decodeEncodeAgree : Obligations.DecodeEncodeAgree :=
  ⟨fun i _ => decode_encode i, decode_eq_iff⟩

/-- Settles O1: each word of Table T30.2 carries the OP of its row. -/
theorem commandWordsDecode : Obligations.CommandWordsDecode := by
  intro p hp
  rw [decode_eq_iff]
  revert p
  decide

/-- Every string of at most 32 bits is a command (R102, R104). -/
theorem decodeTableWord_of_le {nbits : Nat} (h : nbits ≤ 32) (w : Nat) :
    decodeTableWord nbits w = some (decode (commandWord nbits w)) := by
  rw [decodeTableWord, decodeBits, if_pos h, Except.toOption]

end Sys2Proof
end

section
/-!
The host's next operation (spec/30_encoding.md R101, R107): when its turn comes, and what a write and one
round of POLL do.
-/

namespace Sys2Proof.Machine

/-! ## When the host's turn comes -/

theorem step_of_planned_host {s : State} {ts : List Turn} (h : s.turns = .host :: ts) :
    step s = hostTurn { s with turns := ts } := by
  rw [step, nextMove, h]
  rfl

/-- With no plan, the host moves when the controller has no step to take. -/
theorem step_of_default_host {s : State} (h : s.turns = []) (hr : s.controllerReady = false) :
    step s = hostTurn s := by
  rw [step, nextMove, h]
  simp only [State.defaultTurn, hr, Bool.false_eq_true, if_false, takeTurn]

/-! ## A write -/

/-- A legal write is taken from the program, gets OKAY, and goes to its location. -/
theorem hostTurn_wrOp {s : State} {off : Nat} {l : Loc} {v : Word} {rest : List HostOp}
    (hr : s.rst = false) (hh : s.host = wrOp s.cfg off v :: rest) (ho : off < 0x4000)
    (h4 : off % 4 = 0) (hl : locate s.cfg off = some l) :
    hostTurn s = writeHost l v { s with host := rest, trace := ⟨true, none⟩ :: s.trace } := by
  rw [hostTurn, hh]
  exact busAccess_write (s := { s with host := rest }) v hr ho h4 hl

theorem hostTurn_wrOp_cmd {s : State} {w : Word} {rest : List HostOp} (hr : s.rst = false)
    (hh : s.host = wrOp s.cfg 0x008 w :: rest) :
    hostTurn s = exec (decode w) { s with host := rest, trace := ⟨true, none⟩ :: s.trace } :=
  hostTurn_wrOp hr hh (by decide) (by decide) (locate_of_control (by decide))

/-- Settles O3: the host's turn is a write to CMD, which `writeHost` hands to `exec`. -/
theorem stepRunsDecodedCommand : Obligations.StepRunsDecodedCommand := by
  refine ⟨fun s w rest hr hh => ⟨fun ts hts => ?_, fun hts hc => ?_⟩, fun s nbits w hn =>
    ⟨_, decodeTableWord_of_le hn w, ?_⟩⟩
  · rw [step_of_planned_host hts]
    exact hostTurn_wrOp_cmd (s := { s with turns := ts }) hr hh
  · rw [step_of_default_host hts hc]
    exact hostTurn_wrOp_cmd hr hh
  · rw [step_of_planned_host (s := s.withFetchWord nbits w) rfl]
    exact hostTurn_wrOp_cmd (s := { s.withFetchWord nbits w with turns := s.turns }) rfl rfl

/-! ## POLL -/

/-- STATUS is no command's destination, so its read uses no free value. -/
theorem afterRead_status (s : State) : s.afterRead .status = s := by
  have hd : s.readDraws .status = false := by
    simp [State.readDraws, isDestination_control (l := .status) (by simp)]
  simp [State.afterRead, hd]

/-- A read of STATUS at its offset. -/
theorem busAccess_read_status {s : State} (hr : s.rst = false) :
    busAccess (.read (s.cfg.base + Loc.status.offset) 32) s = .next (s.okay (some s.statusWord)) := by
  rw [busAccess_read hr (by decide) (by decide) (locate_of_control (by decide)), afterRead_status,
    readLoc_status]

theorem getLsbD_statusWord_busy (s : State) : s.statusWord.getLsbD 0 = s.busy := by
  rw [getLsbD_statusWord s (by decide), if_pos rfl]

theorem hostTurn_poll {s : State} {rest : List HostOp} (h : s.host = .poll :: rest) :
    hostTurn s = pollOnce rest s := by
  rw [hostTurn, h]

/-- Settles O56: the read is the same in both cases, and BUSY decides whether POLL stays the host's next
operation. -/
theorem pollRepeatsWhileBusy : Obligations.PollRepeatsWhileBusy := by
  refine fun s rest hr hh => ⟨(hostTurn_poll hh).trans ?_, getLsbD_statusWord_busy s⟩
  cases hb : s.busy with
  | true =>
    simp only [pollOnce, hb, if_true, ← hh]
    exact busAccess_read_status hr
  | false =>
    simp only [pollOnce, hb, Bool.false_eq_true, if_false]
    exact busAccess_read_status (s := { s with host := rest }) hr

end Sys2Proof.Machine
end

section
/-!
WRBIG (spec/30_encoding.md R107; spec/20_memory.md R71): the host's writes of consecutive words replace
the register's words one by one, from word 0 up.
-/

namespace Sys2Proof.Machine

/-- The state in which `n` host writes have left `ws` in a register, and `rest` of the program. -/
def State.afterBigWrites (s : State) (r : BigName) (ws : BigReg) (n : Nat) (rest : List HostOp) : State :=
  { s.setBig r ws with host := rest, trace := List.replicate n ⟨true, none⟩ ++ s.trace }

@[simp] theorem afterBigWrites_cfg (s : State) (r : BigName) (ws : BigReg) (n : Nat)
    (rest : List HostOp) : (s.afterBigWrites r ws n rest).cfg = s.cfg := setBig_cfg s r ws

@[simp] theorem afterBigWrites_host (s : State) (r : BigName) (ws : BigReg) (n : Nat)
    (rest : List HostOp) : (s.afterBigWrites r ws n rest).host = rest := rfl

theorem getBig_afterBigWrites {r : BigName} (h : r.hostWritable = true) (s : State) (ws : BigReg)
    (n : Nat) (rest : List HostOp) : (s.afterBigWrites r ws n rest).getBig r = ws := by
  have hE : r ≠ .E := by rintro rfl; cases h
  have hset : (s.afterBigWrites r ws n rest).getBig r = (s.setBig r ws).getBig r := by cases r <;> rfl
  rw [hset, getBig_setBig, if_pos ⟨rfl, hE⟩]

theorem State.Ready.afterBigWrites {s : State} (h : s.Ready) (r : BigName) (ws : BigReg) (n : Nat)
    (rest : List HostOp) : (s.afterBigWrites r ws n rest).Ready where
  idle := (setBig_ctrl s r ws).trans h.idle
  running := by cases r <;> exact h.running

/-- Later writes to the register replace what the earlier ones left. -/
theorem afterBigWrites_afterBigWrites (s : State) (r : BigName) (ws ws' : BigReg) (m n : Nat)
    (rest rest' : List HostOp) :
    (s.afterBigWrites r ws m rest).afterBigWrites r ws' n rest' =
      s.afterBigWrites r ws' (n + m) rest' := by
  cases r <;> simp [State.afterBigWrites, State.setBig, ← List.append_assoc]

/-- No write leaves the register as it is. -/
theorem afterBigWrites_zero (s : State) (r : BigName) :
    s.afterBigWrites r (s.getBig r) 0 s.host = s := by
  cases r <;> rfl

/-- One write of a word to a register of an idle block. -/
theorem hostTurn_wrOp_big {s : State} {r : BigName} {i : Nat} {w : Word} {rest : List HostOp}
    (hc : s.cfg.wf = true) (hs : s.Ready) (hw : r.hostWritable = true) (hi : i < s.cfg.nw)
    (hh : s.host = wrOp s.cfg (r.offset + 4 * i) w :: rest) :
    hostTurn s = .next (s.afterBigWrites r ((s.getBig r).set i w) 1 rest) := by
  obtain ⟨ho, h4⟩ : r.offset + 4 * i < 0x4000 ∧ (r.offset + 4 * i) % 4 = 0 := by
    have hnw := (words_le_of_wf hc).1
    obtain ⟨hle, hmod⟩ : r.offset ≤ 0x2C00 ∧ r.offset % 4 = 0 := by cases r <;> decide
    omega
  rw [hostTurn_wrOp hs.running hh ho h4 (locate_big hc r hi)]
  have hbusy : ({ s with host := rest, trace := ⟨true, none⟩ :: s.trace } : State).busy = false :=
    busy_of_idle hs.idle
  rw [writeHost_big_of_idle hbusy hw]
  cases r <;> rfl

/-- The writes of a register's upper words, the last one included: the lower words `pre` stay, and `ws`
replaces the words `old`. -/
theorem takeTurns_wrWords {r : BigName} (hw : r.hostWritable = true) (ws pre old : BigReg) {s : State}
    {rest : List HostOp} (hc : s.cfg.wf = true) (hs : s.Ready) (hbig : s.getBig r = pre ++ old)
    (hlen : old.length = ws.length) (hnw : pre.length + ws.length = s.cfg.nw)
    (hh : s.host = wrWords s.cfg (r.offset + 4 * pre.length) ws ++ rest) :
    takeTurns (List.replicate ws.length .host) s =
      .next (s.afterBigWrites r (pre ++ ws) ws.length rest) := by
  induction ws generalizing s pre old with
  | nil =>
    have hold : old = [] := List.length_eq_zero_iff.mp hlen
    have hrest : s.host = rest := hh
    rw [hold] at hbig
    rw [← hbig, ← hrest]
    exact congrArg _ (afterBigWrites_zero s r).symm
  | cons w ws ih =>
    obtain ⟨o, old, rfl⟩ := List.exists_cons_of_length_eq_add_one hlen
    rw [List.length_cons] at hlen hnw
    have hset : (s.getBig r).set pre.length w = pre ++ [w] ++ old := by
      simp [hbig, List.set_append_right]
    have hhead : s.host = wrOp s.cfg (r.offset + 4 * pre.length) w ::
        (wrWords s.cfg (r.offset + 4 * (pre ++ [w]).length) ws ++ rest) := by
      rw [hh, List.length_append, Nat.mul_add, ← Nat.add_assoc]
      rfl
    have hturn := hostTurn_wrOp_big hc hs hw (by omega) hhead
    rw [hset] at hturn
    rw [List.length_cons, List.replicate_succ, takeTurns_cons (turn := .host) hturn]
    refine (ih (pre ++ [w]) old ?_ (hs.afterBigWrites ..) (getBig_afterBigWrites hw ..)
      (Nat.succ.inj hlen) ?_ ?_).trans ?_
    · rwa [afterBigWrites_cfg]
    · rw [afterBigWrites_cfg, List.length_append, List.length_singleton]
      omega
    · rw [afterBigWrites_host, afterBigWrites_cfg]
    · rw [afterBigWrites_afterBigWrites, List.append_assoc, List.singleton_append]

/-- Settles O57: the NW words of `v` are written from word 0 up, and the register's value is `v`. -/
theorem writeBigWritesRegister : Obligations.WriteBigWritesRegister := by
  intro s r v rest hinv hs hw hv hh
  have hwrites := takeTurns_wrWords hw (wordsOf s.cfg.nw v) [] (s.getBig r) hinv.cfg hs rfl
    (by simpa using hinv.widths r) (by simp) hh
  rw [length_wordsOf] at hwrites
  have hbig := getBig_afterBigWrites hw s (wordsOf s.cfg.nw v) s.cfg.nw rest
  refine ⟨_, hwrites, ?_, ?_⟩
  · rw [List.nil_append, hbig]
    exact value_wordsOf_of_lt (bw_eq_of_wf hinv.cfg ▸ hv)
  · rw [List.nil_append, hbig, State.afterBigWrites]

end Sys2Proof.Machine
end

section
/-!
EGCD is R130's recursion and gives a Bezout triple (spec/40_egcd.md R130, R131), and R133's loop agrees
with it.
-/

namespace Sys2Proof.Machine

/-- The divisor that EGCD answers is the greatest common divisor (R131). -/
theorem egcd_g (a b : Nat) : (egcd a b).g = Nat.gcd a b := by
  induction a, b using egcd_induction with
  | zero a => rw [egcd_zero, Nat.gcd_zero_right]
  | step a b hb ih => rw [egcd_step a hb, ih, Nat.gcd_comm, ← Nat.gcd_rec, Nat.gcd_comm]

/-- Where b divides a, EGCD ends after one step with (0, 1, b, 1) (R131, R136). -/
theorem egcd_of_dvd {a b : Nat} (hb : b ≠ 0) (h : b ∣ a) :
    egcd a b = { x := 0, y := 1, g := b, n := 1 } := by
  rw [egcd_step a hb, Nat.mod_eq_zero_of_dvd h, egcd_zero]
  simp

/-- Settles O28: the two equations of R130, and the Bezout identity by induction along them. -/
theorem bezoutIdentity : Obligations.BezoutIdentity :=
  ⟨egcd_zero, fun a _ => egcd_step a, fun a b => ⟨egcd_bezout a b, egcd_g a b⟩, rfl,
    fun b hb => egcd_of_dvd hb.ne' (Nat.dvd_zero b)⟩

/-- The loop of R133 from any of its states: its result combines the coefficients of the recursion on
(r0, r1) with the two columns s and t that the loop carries. -/
theorem egcdLoop_eq {fuel r0 r1 : Nat} (h : r1 ≤ fuel) (s0 s1 t0 t1 : Int) (n : Nat) :
    egcdLoop fuel r0 r1 s0 s1 t0 t1 n =
      { x := (egcd r0 r1).x * s0 + (egcd r0 r1).y * s1
        y := (egcd r0 r1).x * t0 + (egcd r0 r1).y * t1
        g := (egcd r0 r1).g
        n := n + (egcd r0 r1).n } := by
  induction fuel generalizing r0 r1 s0 s1 t0 t1 n with
  | zero =>
    obtain rfl : r1 = 0 := by omega
    simp [egcdLoop, egcd_zero]
  | succ fuel ih =>
    by_cases hr : r1 = 0
    · simp [egcdLoop, hr, egcd_zero]
    · have hmod : r0 - r0 / r1 * r1 = r0 % r1 := by rw [Nat.mod_eq_sub_div_mul]
      have hlt := Nat.mod_lt r0 (Nat.pos_of_ne_zero hr)
      rw [egcdLoop, if_neg hr, egcd_step r0 hr]
      simp only [hmod, ih (show r0 % r1 ≤ fuel by omega)]
      congr 1
      · ring
      · ring
      · omega

/-- Settles O30: the loop starts with the columns (1, 0) and (0, 1), so it combines nothing. -/
theorem loopAgreesWithRecursion : Obligations.LoopAgreesWithRecursion := fun a b => by
  rw [egcdIter, egcdLoop_eq (Nat.le_refl b)]
  simp

end Sys2Proof.Machine
end

section
/-!
The bounds of EGCD's results: its coefficients fit the registers X and Y (spec/40_egcd.md R132), and its
step count, by Lamé's comparison with the Fibonacci numbers, fits ITER_CNT (R134).
-/

namespace Sys2Proof.Machine

/-- The bound's step where the remainder r = a mod b is not 0. Either r ≥ 2g, or r = g, which divides b,
so that x' = 0 and y' = 1; both give 2g|x'| ≤ r and 2g|y'| ≤ b, and r + (a/b)·b = a. -/
theorem natAbs_bound_step {a b : Nat} {t : Bezout} (ht : egcd b (a % b) = t) (hb : b ≠ 0)
    (hr : a % b ≠ 0) (hx : 2 * t.g * t.x.natAbs ≤ max (2 * t.g) (a % b))
    (hy : 2 * t.g * t.y.natAbs ≤ max (2 * t.g) b) :
    2 * t.g * (t.x - (a / b : Nat) * t.y).natAbs ≤ a := by
  have hlt := Nat.mod_lt a (Nat.pos_of_ne_zero hb)
  have hdvd : t.g ∣ b ∧ t.g ∣ a % b :=
    ht ▸ egcd_g b (a % b) ▸ ⟨Nat.gcd_dvd_left .., Nat.gcd_dvd_right ..⟩
  have hb2 : 2 * t.g ≤ b := by
    by_contra h
    have hbg := Nat.eq_of_dvd_of_lt_two_mul hb hdvd.1 (Nat.lt_of_not_le h)
    have := Nat.le_of_dvd (Nat.pos_of_ne_zero hr) hdvd.2
    omega
  have hx' : 2 * t.g * t.x.natAbs ≤ a % b := by
    by_cases hr2 : 2 * t.g ≤ a % b
    · rwa [max_eq_right hr2] at hx
    · have hrg := Nat.eq_of_dvd_of_lt_two_mul hr hdvd.2 (Nat.lt_of_not_le hr2)
      rw [← ht, egcd_of_dvd hr (hrg ▸ hdvd.1)]
      simp
  rw [max_eq_right hb2] at hy
  have hsub := Int.natAbs_sub_le t.x ((a / b : Nat) * t.y)
  rw [Int.natAbs_mul, Int.natAbs_natCast] at hsub
  calc _ ≤ 2 * t.g * (t.x.natAbs + a / b * t.y.natAbs) := Nat.mul_le_mul_left _ hsub
    _ = 2 * t.g * t.x.natAbs + a / b * (2 * t.g * t.y.natAbs) := by ring
    _ ≤ a % b + a / b * b := Nat.add_le_add hx' (Nat.mul_le_mul_left _ hy)
    _ = a := Nat.mod_add_div' a b

/-- The coefficient bound of R132, doubled and multiplied by g; for a = b = 0 it says nothing. -/
theorem egcd_natAbs_bound (a b : Nat) :
    2 * (egcd a b).g * (egcd a b).x.natAbs ≤ max (2 * (egcd a b).g) b ∧
    2 * (egcd a b).g * (egcd a b).y.natAbs ≤ max (2 * (egcd a b).g) a := by
  induction a, b using egcd_induction with
  | zero a => simp [egcd_zero]
  | step a b hb ih =>
    obtain ⟨hx, hy⟩ := ih
    rw [egcd_step a hb]
    refine ⟨hy, ?_⟩
    by_cases hr : a % b = 0
    · simp [hr, egcd_zero]
    · exact (natAbs_bound_step rfl hb hr hx hy).trans (le_max_right _ _)

/-- A coefficient within the bound fits BW bits, since 1 does for BW ≥ 2. -/
theorem fitsSigned_of_natAbs_bound {w g c : Nat} {v : Int} (hw : 2 ≤ w) (hg : 0 < g) (hc : c < 2 ^ w)
    (hv : 2 * g * v.natAbs ≤ max (2 * g) c) : fitsSigned w v = true := by
  obtain ⟨k, rfl⟩ := Nat.exists_eq_add_of_le' hw
  have hpow : 2 ^ (k + 2) = 2 * 2 ^ (k + 1) := Nat.pow_succ'
  have hone : 1 < 2 ^ (k + 1) := Nat.one_lt_two_pow (by omega)
  have habs : v.natAbs < 2 ^ (k + 1) := by
    rcases le_max_iff.mp hv with h | h
    · have : v.natAbs ≤ 1 := Nat.le_of_mul_le_mul_left (by rwa [Nat.mul_one]) (by omega)
      omega
    · have : 2 * 1 * v.natAbs ≤ 2 * g * v.natAbs := by gcongr; omega
      omega
  have hcast : ((2 ^ (k + 1) : Nat) : Int) = 2 ^ (k + 1) := Nat.cast_pow ..
  simp only [fitsSigned, Nat.add_succ_sub_one, Bool.and_eq_true, decide_eq_true_eq, ← hcast]
  omega

/-- Both coefficients fit BW bits of two's complement (R132); for a = b = 0 they are 1 and 0. -/
theorem fitsSigned_egcd {w a b : Nat} (hw : 2 ≤ w) (ha : a < 2 ^ w) (hb : b < 2 ^ w) :
    fitsSigned w (egcd a b).x = true ∧ fitsSigned w (egcd a b).y = true := by
  obtain ⟨hx, hy⟩ := egcd_natAbs_bound a b
  rcases Nat.eq_zero_or_pos (egcd a b).g with hg | hg
  · obtain ⟨rfl, rfl⟩ := Nat.gcd_eq_zero_iff.mp (egcd_g a b ▸ hg)
    exact ⟨fitsSigned_of_natAbs_bound (g := 1) hw Nat.one_pos ha (by decide),
      fitsSigned_of_natAbs_bound (g := 1) hw Nat.one_pos ha (by decide)⟩
  · exact ⟨fitsSigned_of_natAbs_bound hw hg hb hx, fitsSigned_of_natAbs_bound hw hg ha hy⟩

/-- Settles O29: the bound by induction, and the fit from it. -/
theorem coefficientBound : Obligations.CoefficientBound :=
  ⟨fun a b _ => egcd_natAbs_bound a b, rfl, rfl, fun _ _ _ => fitsSigned_egcd⟩

/-- Lamé's comparison: a run of n steps needs arguments as large as the Fibonacci numbers. -/
theorem fib_egcd_n_le (a b : Nat) :
    Nat.fib (egcd a b).n ≤ b ∧ (b < a → Nat.fib ((egcd a b).n + 1) ≤ a) := by
  induction a, b using egcd_induction with
  | zero a => exact ⟨Nat.le_refl 0, id⟩
  | step a b hb ih =>
    obtain ⟨hn, hn1⟩ := ih
    have hlt := Nat.mod_lt a (Nat.pos_of_ne_zero hb)
    rw [egcd_step a hb]
    refine ⟨hn1 hlt, fun hba => ?_⟩
    have hdiv : b + a % b ≤ a := by
      have hq : b * 1 ≤ b * (a / b) := Nat.mul_le_mul_left b (Nat.div_pos hba.le (by omega))
      have := Nat.div_add_mod a b
      omega
    rw [Nat.fib_add_two]
    have := hn1 hlt
    omega

/-- Three Fibonacci steps multiply by 4 or more. -/
theorem four_mul_fib_le {n : Nat} (h : 2 ≤ n) : 4 * Nat.fib n ≤ Nat.fib (n + 3) := by
  obtain ⟨m, rfl⟩ := Nat.exists_eq_add_of_le' h
  have h2 : Nat.fib (m + 2) = Nat.fib m + Nat.fib (m + 1) := Nat.fib_add_two
  have h3 : Nat.fib (m + 3) = Nat.fib (m + 1) + Nat.fib (m + 2) := Nat.fib_add_two
  have h4 : Nat.fib (m + 4) = Nat.fib (m + 2) + Nat.fib (m + 3) := Nat.fib_add_two
  have h5 : Nat.fib (m + 5) = Nat.fib (m + 3) + Nat.fib (m + 4) := Nat.fib_add_two
  have hmono := Nat.fib_le_fib_succ (n := m)
  change 4 * Nat.fib (m + 2) ≤ Nat.fib (m + 5)
  omega

/-- Fibonacci numbers grow as fast as 2^(2n/3), up to a constant. -/
theorem two_pow_le_fib {n : Nat} (w : Nat) (h : 3 * w + 6 < 2 * n) : 2 ^ w ≤ Nat.fib n := by
  induction w using Nat.twoStepInduction generalizing n with
  | zero => exact Nat.fib_pos.mpr (by omega)
  | one => exact (show 2 ≤ Nat.fib 5 by decide).trans (Nat.fib_mono (by omega))
  | more w ih _ =>
    obtain ⟨m, rfl⟩ := Nat.exists_eq_add_of_le' (show 3 ≤ n by omega)
    calc 2 ^ (w + 2) = 4 * 2 ^ w := by ring
      _ ≤ 4 * Nat.fib m := Nat.mul_le_mul_left 4 (ih (by omega))
      _ ≤ Nat.fib (m + 3) := four_mul_fib_le (by omega)

/-- The step count of R134, doubled. -/
theorem two_mul_egcd_n_le {w b : Nat} (a : Nat) (hb : b < 2 ^ w) : 2 * (egcd a b).n ≤ 3 * w + 6 := by
  by_contra h
  have hfib := two_pow_le_fib w (Nat.lt_of_not_le h)
  exact absurd (hfib.trans (fib_egcd_n_le a b).1) (Nat.not_le.mpr hb)

/-- ITER_CNT loses nothing of the step count for a legal K (R134). -/
theorem toNat_ofNat_egcd_n {c : Config} {b : Nat} (a : Nat) (hc : c.wf = true) (hb : b < 2 ^ c.bw) :
    (BitVec.ofNat 32 (egcd a b).n).toNat = (egcd a b).n := by
  obtain ⟨k, -, hk, hK⟩ := keyBits_of_wf hc
  have hn := two_mul_egcd_n_le a hb
  simp only [Config.bw] at hn
  rw [BitVec.toNat_ofNat, Nat.mod_eq_of_lt (by omega)]

/-- Settles O31: Lamé's comparison, and a legal K is at most 4096. -/
theorem stepCountBound : Obligations.StepCountBound :=
  ⟨fun _ a _ _ => two_mul_egcd_n_le a, fun _ a _ hc _ => toNat_ofNat_egcd_n a hc⟩

end Sys2Proof.Machine
end

section
/-!
The EGCD command (spec/40_egcd.md R135, R137): the issue starts EG_RUN, whose one step completes with the
Bezout triple, since the range check of R137 passes by R132.
-/

namespace Sys2Proof.Machine

/-! ## Two's complement (spec/00_scope.md R12) -/

theorem twos_eq_toNat_ofInt (w : Nat) (v : Int) : twos w v = (BitVec.ofInt w v).toNat := by
  rw [twos, BitVec.toNat_ofInt, Nat.cast_pow, Nat.cast_ofNat]

theorem twos_lt (w : Nat) (v : Int) : twos w v < 2 ^ w := twos_eq_toNat_ofInt w v ▸ BitVec.isLt _

theorem sval_toNat {w : Nat} (v : BitVec w) : sval w v.toNat = v.toInt := by
  rw [sval, BitVec.toInt_eq_msb_cond, BitVec.msb_eq_getLsbD_last, BitVec.testBit_toNat, Nat.cast_pow,
    Nat.cast_ofNat]

/-- A value that fits is read back from its two's-complement form. -/
theorem sval_twos {w : Nat} {v : Int} (hw : 0 < w) (h : fitsSigned w v = true) :
    sval w (twos w v) = v := by
  simp only [fitsSigned, Bool.and_eq_true, decide_eq_true_eq] at h
  rw [twos_eq_toNat_ofInt, sval_toNat, BitVec.toInt_ofInt_eq_self hw h.1 h.2]

/-- A register holds a value of BW bits exactly. -/
theorem value_reg {s : State} {v : Nat} (hc : s.cfg.wf = true) (hv : v < 2 ^ s.cfg.bw) :
    (s.reg v).value = v :=
  value_wordsOf_of_lt (bw_eq_of_wf hc ▸ hv)

/-- A register written with a two's-complement form holds the value that it stands for. -/
theorem sval_reg_twos {s : State} {v : Int} (hc : s.cfg.wf = true) (h : fitsSigned s.cfg.bw v = true) :
    sval s.cfg.bw (s.reg (twos s.cfg.bw v)).value = v := by
  rw [value_reg hc (twos_lt ..), sval_twos (by simp only [Config.bw]; omega) h]

/-- A register of the invariant's width holds a value below 2^BW. -/
theorem value_lt_two_pow_bw {s : State} (h : s.Inv) (r : BigName) :
    (s.getBig r).value < 2 ^ s.cfg.bw := by
  rw [bw_eq_of_wf h.cfg, ← h.widths r]
  exact value_lt _

/-- The divisor fits as its arguments do. -/
theorem egcd_g_lt {a b k : Nat} (ha : a < k) (hb : b < k) : (egcd a b).g < k := by
  rw [egcd_g]
  rcases Nat.eq_zero_or_pos b with rfl | hpos
  · rwa [Nat.gcd_zero_right]
  · exact (Nat.gcd_le_right a hpos).trans_lt hb

/-- The results of EGCD on the operand registers fit X and Y (R132). -/
theorem fitsSigned_egcd_registers {s : State} (h : s.Inv) :
    fitsSigned s.cfg.bw (egcd s.A.value s.B.value).x = true ∧
      fitsSigned s.cfg.bw (egcd s.A.value s.B.value).y = true :=
  fitsSigned_egcd (by simp only [Config.bw]; omega) (value_lt_two_pow_bw h .A) (value_lt_two_pow_bw h .B)

/-- EG_RUN never raises ARITH_OVERFLOW (R137). -/
theorem egcdRun_eq_complete {s : State} (h : s.Inv) :
    egcdRun s = complete (s.writeBezout (egcd s.A.value s.B.value)) := by
  obtain ⟨hx, hy⟩ := fitsSigned_egcd_registers h
  rw [egcdRun, hx, hy, Bool.and_self, if_pos rfl]

theorem takeTurn_egRun {s : State} (hr : s.rst = false) (hk : s.ctrl = .egRun) :
    takeTurn .controller s = .next (egcdRun s) := by
  simp [takeTurn, controllerTurn, controllerStep, hr, hk]

/-- The whole next state of an EGCD command: its results and the outcome fields. -/
def State.afterEgcd (s : State) (t : Bezout) : State :=
  { s with
    lastOp := 1, done := true, err := false, errCode := 0, subcause := 0, errPos := 0
    doneIP := true, X := s.reg (twos s.cfg.bw t.x), Y := s.reg (twos s.cfg.bw t.y)
    G := s.reg t.g, iterCnt := BitVec.ofNat 32 t.n }

theorem complete_writeBezout_startedState {s : State} (hk : s.ctrl = .idle) (t : Bezout) :
    complete ((startedState .egcd .egRun s).writeBezout t) = s.afterEgcd t := by
  cases s
  cases hk
  rfl

/-- The controller's step after the issue of EGCD. -/
theorem takeTurn_startedState_egcd {s : State} (h : s.Inv) (hs : s.Ready) :
    takeTurn .controller (startedState .egcd .egRun s) =
      .next (s.afterEgcd (egcd s.A.value s.B.value)) := by
  have hr : (startedState .egcd .egRun s).rst = false := hs.running
  rw [takeTurn_egRun hr rfl, egcdRun_eq_complete (inv_startedState h rfl),
    complete_writeBezout_startedState hs.idle]
  rfl

/-- The registers X and Y that EGCD writes hold the Bezout coefficients of A and B (R131, R135). -/
theorem bezout_registers {s : State} (h : s.Inv) :
    (s.A.value : Int) * sval s.cfg.bw (s.reg (twos s.cfg.bw (egcd s.A.value s.B.value).x)).value +
      s.B.value * sval s.cfg.bw (s.reg (twos s.cfg.bw (egcd s.A.value s.B.value).y)).value =
      Nat.gcd s.A.value s.B.value := by
  obtain ⟨hx, hy⟩ := fitsSigned_egcd_registers h
  rw [sval_reg_twos h.cfg hx, sval_reg_twos h.cfg hy, egcd_bezout, egcd_g]

/-- Settles O32: the issue starts EG_RUN, and its step completes with the Bezout triple. -/
theorem egcdCommandCompletes : Obligations.EgcdCommandCompletes := by
  intro s hinv hs
  have ha := value_lt_two_pow_bw hinv .A
  have hb := value_lt_two_pow_bw hinv .B
  have hg : (s.reg (egcd s.A.value s.B.value).g).value = Nat.gcd s.A.value s.B.value :=
    (value_reg hinv.cfg (egcd_g_lt ha hb)).trans (egcd_g ..)
  exact ⟨startedState .egcd .egRun s, s.afterEgcd (egcd s.A.value s.B.value),
    exec_of_firstState rfl (busy_of_idle hs.idle), rfl, takeTurn_startedState_egcd hinv hs, rfl, rfl,
    bezout_registers hinv, hg, toNat_ofNat_egcd_n _ hinv.cfg hb, rfl⟩

end Sys2Proof.Machine
end

section
/-!
Turns of the controller and answers of the agents, one rule each: a pending request waits, an answer that
does not match it is discarded, and one that matches it is taken (spec/41_keyderive.md R160, R162).
-/

namespace Sys2Proof.Machine

/-! ## The controller's turns -/

theorem takeTurn_controller {s : State} (hr : s.rst = false) :
    takeTurn .controller s = controllerStep s := by
  simp [takeTurn, controllerTurn, hr]

/-- Where a request is pending the controller waits. -/
theorem controllerStep_of_request {s : State} (h : s.request.isSome = true) :
    controllerStep s = .next s := by
  unfold State.request at h
  split at h
  case h_5 =>
    split at h
    · simp [controllerStep, *]
    · cases h
  case h_6 => cases h
  all_goals simp [controllerStep, *]

theorem takeTurn_controller_of_request {s : State} (h : s.request.isSome = true) :
    takeTurn .controller s = .next s := by
  rw [takeTurn, controllerTurn, controllerStep_of_request h, ite_self]

/-- The first of several controller turns. -/
theorem takeTurns_controllerTurns_succ {s t : State} (k : Nat) (hr : s.rst = false)
    (h : controllerStep s = .next t) :
    takeTurns (controllerTurns (k + 1)) s = takeTurns (controllerTurns k) t :=
  takeTurns_cons ((takeTurn_controller hr).trans h)

theorem controllerTurns_add (k m : Nat) :
    controllerTurns (k + m) = controllerTurns k ++ controllerTurns m := List.replicate_add ..

theorem takeTurns_append_of_next {ts us : List Turn} {s t : State} (h : takeTurns ts s = .next t) :
    takeTurns (ts ++ us) s = takeTurns us t := by
  rw [takeTurns_append, h]; rfl

/-! ## Answers -/

/-- An answer of the wrong kind is discarded. -/
theorem answer_of_kind_ne {s : State} {r : Request} {prime : Bool} (hq : s.request = some r)
    (hk : r.isPrime ≠ prime) (tag : Nat) (take : State → State) : answer tag prime take s = s := by
  simp [answer, hq, hk]

/-- An answer with the number and of the kind of the pending request is taken. -/
theorem answer_of_request {s : State} {r : Request} (hq : s.request = some r) (hr : s.rst = false)
    (take : State → State) :
    answer s.reqId r.isPrime take s = take { s with reqId := s.reqId + 1 } := by
  simp [answer, hq, hr]

/-- Two ways to take the same answer are related when the two results are, and the state to itself. -/
theorem answer_rel {R : State → State → Prop} {take take' : State → State} {s : State} (tag : Nat)
    (prime : Bool) (hs : R s s)
    (h : R (take { s with reqId := s.reqId + 1 }) (take' { s with reqId := s.reqId + 1 })) :
    R (answer tag prime take s) (answer tag prime take' s) := by
  unfold answer
  split
  · split
    · exact h
    · exact hs
  · exact hs

theorem takeTurn_randomAnswer {s : State} (w : Word) (hq : s.request = some .randomWord)
    (hr : s.rst = false) :
    takeTurn (.randomAnswer s.reqId w) s = .next (takeWord w { s with reqId := s.reqId + 1 }) :=
  congrArg Host.Outcome.next (answer_of_request hq hr _)

theorem takeTurn_primeAnswer {s : State} {cand : Nat} (e : Bool) (r : Nat)
    (hq : s.request = some (.nextPrime cand)) (hr : s.rst = false) :
    takeTurn (.primeAnswer s.reqId e r) s = .next (takePrime e r { s with reqId := s.reqId + 1 }) :=
  congrArg Host.Outcome.next (answer_of_request hq hr _)

/-- Settles O53: the controller waits, and an answer with another number or of the other kind is
discarded. -/
theorem unansweredRequestWaits : Obligations.UnansweredRequestWaits := fun _ h =>
  ⟨takeTurn_controller_of_request h,
    fun _ _ ht => congrArg Host.Outcome.next (answer_of_tag_ne ht false _),
    fun _ _ _ ht => congrArg Host.Outcome.next (answer_of_tag_ne ht true _),
    fun _ hq tag _ => congrArg Host.Outcome.next (answer_of_kind_ne hq (prime := false) nofun tag _),
    fun hq tag _ _ => congrArg Host.Outcome.next (answer_of_kind_ne hq (prime := true) nofun tag _)⟩

/-! ## The value of a drawn word -/

/-- What the host and the agents see of a command's progress is the same in both states. -/
structure SameProgress (u v : State) : Prop where
  busy : u.busy = v.busy
  kind : u.request.map Request.isPrime = v.request.map Request.isPrime
  command : u.ctrl.command = v.ctrl.command
  rst : u.rst = v.rst
  reqId : u.reqId = v.reqId

theorem SameProgress.refl (s : State) : SameProgress s s := ⟨rfl, rfl, rfl, rfl, rfl⟩

theorem SameProgress.controllerReady_eq {u v : State} (h : SameProgress u v) :
    u.controllerReady = v.controllerReady := by
  have hnone := congrArg Option.isNone h.kind
  rw [Option.isNone_map, Option.isNone_map] at hnone
  rw [State.controllerReady, State.controllerReady, h.busy, hnone, h.rst]

/-- How many words are drawn decides what comes next, and not what they are. -/
theorem takeWord_sameProgress (w w' : Word) (s : State) :
    SameProgress (takeWord w s) (takeWord w' s) := by
  unfold takeWord
  split
  · simp only [drawP, List.length_append, List.length_singleton]
    split <;> exact ⟨rfl, rfl, rfl, rfl, rfl⟩
  · simp only [drawQ, List.length_append, List.length_singleton]
    split <;> exact ⟨rfl, rfl, rfl, rfl, rfl⟩
  · refine ⟨rfl, ?_, rfl, rfl, rfl⟩
    simp [encodeDraw, State.request, State.fillerLen]
  · exact .refl s

/-- Settles O55: both words are taken, or both are discarded. -/
theorem progressIndependentOfDraws : Obligations.ProgressIndependentOfDraws := by
  intro s u v tag w w' hu hv
  cases hu
  cases hv
  have h := answer_rel tag false (.refl s) (takeWord_sameProgress w w' { s with reqId := s.reqId + 1 })
  exact ⟨h.controllerReady_eq, h.busy, h.kind, h.reqId, h.command⟩

end Sys2Proof.Machine
end

section
/-!
The draws of a candidate and the answers of the prime service (spec/41_keyderive.md R163-R168). The two
rounds, for p and for q, differ in their controller states only.
-/

namespace Sys2Proof.Machine

/-! ## Draws -/

/-- The random words are the digits of a register's value, least significant first (R163). -/
theorem sum_mapIdx_eq_value (ws : List Word) (k : Nat) :
    (ws.mapIdx fun i w => w.toNat * 2 ^ (32 * (i + k))).sum = 2 ^ (32 * k) * BigReg.value ws := by
  induction ws generalizing k with
  | nil => rfl
  | cons w ws ih =>
    have hidx (i : Nat) : i + 1 + k = i + (k + 1) := by omega
    simp only [List.mapIdx_cons, List.sum_cons, hidx, ih, BigReg.value]
    ring

/-- `draw ws` is a state in which the words `ws` of a candidate are drawn, and `ask cand` the state in
which the prime service is asked for the candidate. -/
structure DrawRound (draw : List Word → Ctrl) (ask : Nat → Ctrl) : Prop where
  request : ∀ (s : State) ws, s.ctrl = draw ws → s.request = some .randomWord
  take : ∀ (s : State) ws w, s.ctrl = draw ws → takeWord w s = { s with
    ctrl := if s.cfg.candWords ≤ ws.length + 1 then ask (BigReg.value (ws ++ [w]))
      else draw (ws ++ [w]) }

theorem drawRound_p (r : Nat) : DrawRound (.kgDrawP r) (.kgPrimeP r) where
  request s ws hk := by simp [State.request, hk]
  take s ws w hk := by
    simp only [takeWord, hk, drawP, List.length_append, List.length_singleton]
    split <;> rfl

theorem drawRound_q (r p : Nat) : DrawRound (.kgDrawQ r p) (.kgPrimeQ r p) where
  request s ws hk := by simp [State.request, hk]
  take s ws w hk := by
    simp only [takeWord, hk, drawQ, List.length_append, List.length_singleton]
    split <;> rfl

/-- The missing words of a candidate, answered in order, complete it (R165). -/
theorem DrawRound.takeTurns_randomAnswers {draw : List Word → Ctrl} {ask : Nat → Ctrl}
    (h : DrawRound draw ask) {s : State} {pre ws : List Word} (hr : s.rst = false)
    (hk : s.ctrl = draw pre) (hl : pre.length + ws.length = s.cfg.candWords) (hne : ws ≠ []) :
    takeTurns (randomAnswers s.reqId ws) s =
      .next { s with ctrl := ask (BigReg.value (pre ++ ws)), reqId := s.reqId + ws.length } := by
  induction ws generalizing s pre with
  | nil => exact absurd rfl hne
  | cons w ws ih =>
    rw [randomAnswers, takeTurns_cons (takeTurn_randomAnswer w (h.request s pre hk) hr),
      h.take { s with reqId := s.reqId + 1 } pre w hk]
    rw [List.length_cons] at hl
    cases ws with
    | nil => rw [if_pos (by simpa using hl.ge)]; rfl
    | cons w' ws =>
      rw [if_neg (by simp at hl ⊢; omega)]
      refine (ih (s := { s with ctrl := draw (pre ++ [w]), reqId := s.reqId + 1 }) (pre := pre ++ [w])
        hr rfl ?_ nofun).trans ?_
      · simp at hl ⊢; omega
      · simp only [List.append_assoc, List.singleton_append, List.length_cons]
        congr 2
        omega

/-- All words of a candidate, answered in order. -/
theorem DrawRound.takeTurns_candidate {draw : List Word → Ctrl} {ask : Nat → Ctrl}
    (h : DrawRound draw ask) {s : State} {ws : List Word} (hc : s.cfg.wf = true) (hr : s.rst = false)
    (hk : s.ctrl = draw []) (hl : ws.length = s.cfg.candWords) :
    takeTurns (randomAnswers s.reqId ws) s =
      .next { s with ctrl := ask (BigReg.value ws), reqId := s.reqId + ws.length } :=
  h.takeTurns_randomAnswers hr hk (by simpa using hl)
    (List.ne_nil_of_length_pos (hl ▸ candWords_pos hc))

/-- Settles O33: the sum of the words is the value of the register that they form, and both rounds draw
alike. -/
theorem candidateFromWords : Obligations.CandidateFromWords := fun _ ws r hc hr hl =>
  ⟨BigReg.value ws, by simpa using (sum_mapIdx_eq_value ws 0).symm, value_lt_of_candWords hc hl.le,
    fun hk => (drawRound_p r).takeTurns_candidate hc hr hk hl,
    fun p hk => (drawRound_q r p).takeTurns_candidate hc hr hk hl⟩

/-! ## Prime answers -/

/-- The checks of the answer for p, and its write (R164, R168). -/
theorem primeP_eq (n cand : Nat) (e : Bool) (p : Nat) (s : State) :
    primeP n cand e p s =
      if e = true then raiseErr .serviceError 0 s
      else if p < cand then raiseErr .belowCandidate 0 s
      else if s.cfg.primeBound ≤ p then raiseErr .outOfRange 0 s
      else { s with P := s.reg p, ctrl := .kgDrawQ n p [] } := by
  unfold primeP checkPrime
  split_ifs <;> rfl

/-- The checks of the answer for q, and its write (R164, R168). -/
theorem primeQ_eq (n p cand : Nat) (e : Bool) (q : Nat) (s : State) :
    primeQ n p cand e q s =
      if e = true then raiseErr .serviceError 0 s
      else if q < cand then raiseErr .belowCandidate 0 s
      else if s.cfg.primeBound ≤ q then raiseErr .outOfRange 0 s
      else { s with Q := s.reg q, ctrl := .kgArith (.keygen n) p q } := by
  unfold primeQ checkPrime
  split_ifs <;> rfl

theorem takeTurn_primeAnswer_p {s : State} {n cand r : Nat} (e : Bool) (hr : s.rst = false)
    (hw : r < 2 ^ s.cfg.bw) (hk : s.ctrl = .kgPrimeP n cand) :
    takeTurn (.primeAnswer s.reqId e r) s =
      .next (primeP n cand e r { s with reqId := s.reqId + 1 }) := by
  rw [takeTurn_primeAnswer e r (cand := cand) (by simp [State.request, hk]) hr]
  simp only [takePrime, hk, Nat.mod_eq_of_lt hw]

theorem takeTurn_primeAnswer_q {s : State} {n p cand r : Nat} (e : Bool) (hr : s.rst = false)
    (hw : r < 2 ^ s.cfg.bw) (hk : s.ctrl = .kgPrimeQ n p cand) :
    takeTurn (.primeAnswer s.reqId e r) s =
      .next (primeQ n p cand e r { s with reqId := s.reqId + 1 }) := by
  rw [takeTurn_primeAnswer e r (cand := cand) (by simp [State.request, hk]) hr]
  simp only [takePrime, hk, Nat.mod_eq_of_lt hw]

/-- Settles O34: the checks stand in the order of R164, in both rounds. -/
theorem primeAnswerChecks : Obligations.PrimeAnswerChecks := by
  refine fun s n c r e hr hw => ⟨fun hk => ?_, fun p hk => ?_⟩
  · rw [takeTurn_primeAnswer_p e hr hw hk, primeP_eq]
    simp only [apply_ite Host.Outcome.next]
    rfl
  · rw [takeTurn_primeAnswer_q e hr hw hk, primeQ_eq]
    simp only [apply_ite Host.Outcome.next]
    rfl

end Sys2Proof.Machine
end

section
/-!
The steps of DERIVE and KEYGEN that end a round: the operand checks of DERIVE, KEYGEN's retry and the
normalisation of d (spec/41_keyderive.md R173, R174, R180, R181).
-/

namespace Sys2Proof.Machine

/-! ## DERIVE's operand checks -/

/-- The cause of the first check that fails, given that one does (R181). -/
def State.badOperand (s : State) : ErrCause :=
  if s.P.value < 2 then .pLt2 else if s.Q.value < 2 then .qLt2 else .nOverflow

theorem badOperand_code (s : State) : s.badOperand.code = 5 := by
  unfold State.badOperand
  split_ifs <;> rfl

theorem badOperand_sub (s : State) :
    s.badOperand.sub = if s.P.value < 2 then 1 else if s.Q.value < 2 then 2 else 3 := by
  unfold State.badOperand
  split_ifs <;> rfl

theorem derivCheck_of_bad {s : State}
    (h : s.P.value < 2 ∨ s.Q.value < 2 ∨ 2 ^ s.cfg.bw ≤ s.P.value * s.Q.value) :
    derivCheck s = raiseErr s.badOperand 0 s := by
  unfold derivCheck State.badOperand
  dsimp only
  split_ifs
  · rfl
  · rfl
  · rfl
  · omega

theorem derivCheck_of_good {s : State} (hp : 2 ≤ s.P.value) (hq : 2 ≤ s.Q.value)
    (hn : s.P.value * s.Q.value < 2 ^ s.cfg.bw) :
    derivCheck s = { s with ctrl := .kgArith .derive s.P.value s.Q.value } := by
  rw [derivCheck, if_neg hp.not_gt, if_neg hq.not_gt, if_neg hn.not_ge]

/-- The whole next state of a DERIVE that ends with an error. -/
theorem raiseErr_startedState_derive {s : State} (hk : s.ctrl = .idle) (c : ErrCause) :
    raiseErr c 0 (startedState .derive .dvCheck s) = { s with
      lastOp := 3, done := false, err := true, errCode := c.code, subcause := c.sub, errPos := 0
      errIP := true, keyValid := false, retryCnt := 0 } := by
  cases s
  cases hk
  rfl

/-- Settles O35: the checks stand in the order of R181, and an error writes the outcome fields only. -/
theorem deriveOperandChecks : Obligations.DeriveOperandChecks := by
  intro s hs hbad
  refine ⟨startedState .derive .dvCheck s, derivCheck (startedState .derive .dvCheck s),
    exec_of_firstState rfl (busy_of_idle hs.idle),
    takeTurn_controller (s := startedState .derive .dvCheck s) hs.running, ?_⟩
  rw [derivCheck_of_bad (s := startedState .derive .dvCheck s) hbad,
    raiseErr_startedState_derive hs.idle, badOperand_code, badOperand_sub]
  rfl

/-! ## KEYGEN's retry -/

/-- Settles O37: the check fails, and the count is compared with the limit. -/
theorem keygenRetryRule : Obligations.KeygenRetryRule := by
  intro s r n phi b hr hg hk
  have hstep : controllerStep s = .next (keyCheck (.keygen r) n phi b s) := by
    simp only [controllerStep, hk]
  rw [takeTurn_controller hr, hstep, keyCheck, if_neg hg, ← apply_ite Host.Outcome.next]
  rfl

/-! ## Normalisation -/

theorem controllerStep_kgNorm {s : State} {cmd : KeyCmd} {n phi : Nat} {d : Int}
    (hk : s.ctrl = .kgNorm cmd n phi d) : controllerStep s = .next (keyNorm cmd n phi d s) := by
  simp only [controllerStep, hk]

/-- Settles O36, by induction on how far y lies below 0: each round adds φ > 0. -/
theorem normalisationLoop : Obligations.NormalisationLoop := by
  intro s cmd n phi y hr hphi hk
  induction hm : (-y).toNat using Nat.strong_induction_on generalizing s y with
  | _ m ih =>
    have hstep := controllerStep_kgNorm hk
    by_cases hy : y < 0
    · rw [keyNorm, if_pos hy] at hstep
      obtain ⟨k, j, d, hrun, hd, hpos, hneg⟩ :=
        ih _ (by omega) { s with ctrl := .kgNorm cmd n phi (y + phi) } (y + phi) hr rfl rfl
      refine ⟨k + 1, j + 1, d, (takeTurns_controllerTurns_succ k hr hstep).trans hrun, ?_,
        fun h => absurd hy h.not_gt, fun _ => ?_⟩
      · rw [hd]; push_cast; ring
      · rcases lt_or_ge (y + phi) 0 with h | h
        · exact hneg h
        · rw [hpos h] at hd; omega
    · rw [keyNorm, if_neg hy] at hstep
      exact ⟨1, 0, y.toNat, takeTurns_controllerTurns_succ 0 hr hstep, by omega, fun _ => rfl,
        fun h => absurd h hy⟩

end Sys2Proof.Machine
end

section
/-!
The commit of a key (spec/41_keyderive.md R169-R176, R180). KEYGEN and DERIVE meet in KG_ARITH: what
follows from there is proved once, for both commands.
-/

namespace Sys2Proof.Machine

/-! ## Arithmetic -/

/-- For operands that are not 0 the totient is the product of R170. -/
theorem totient_of_pos (c : Config) {p q : Nat} (hp : 1 ≤ p) (hq : 1 ≤ q) :
    totient c p q = (p - 1) * (q - 1) := by
  have hcast : ((p : Int) - 1) * ((q : Int) - 1) = ((p - 1) * (q - 1) : Nat) := by
    push_cast [hp, hq]; rfl
  rw [totient, hcast, if_pos (Int.natCast_nonneg _), Int.toNat_natCast]

/-- φ < p·q (R176). -/
theorem pred_mul_pred_lt {p q : Nat} (hp : 1 ≤ p) (hq : 1 ≤ q) : (p - 1) * (q - 1) < p * q :=
  Nat.mul_lt_mul'' (by omega) (by omega)

/-- The coefficient of 65537 lies below φ: below φ/2 by R132, and for φ = 1 it is 0. -/
theorem egcd_ePub_y_lt {phi : Nat} (hg : (egcd phi ePub).g = 1) : (egcd phi ePub).y < phi := by
  have hbound := (egcd_natAbs_bound phi ePub).2
  rw [hg] at hbound
  match phi, hg with
  | 0, hg => exact absurd hg (by decide)
  | 1, _ => decide
  | phi + 2, _ => omega

/-- E_PUB fits a register of every width. -/
theorem ePub_lt_two_pow_bw (c : Config) : ePub < 2 ^ c.bw :=
  (show ePub < 2 ^ 17 by decide).trans_le
    (Nat.pow_le_pow_right two_pos (by simp only [Config.bw]; omega))

/-- What the normalisation makes of the coefficient is an inverse of 65537 modulo φ (R176). -/
theorem ePub_mul_modEq_one {phi d j : Nat} (hg : (egcd phi ePub).g = 1)
    (hd : (d : Int) = (egcd phi ePub).y + j * phi) : ePub * d ≡ 1 [MOD phi] := by
  have hbez := egcd_bezout phi ePub
  rw [hg] at hbez
  refine Int.natCast_modEq_iff.mp (Int.modEq_iff_dvd.mpr ⟨(egcd phi ePub).x - ePub * j, ?_⟩)
  push_cast [hd] at hbez ⊢
  linear_combination -hbez

/-! ## From KG_ARITH to the end -/

/-- φ and the step count of EGCD(φ, E_PUB) are written (R170, R171). -/
def State.withTotient (s : State) (phi : Nat) : State :=
  { s with PHI := s.reg phi, iterCnt := BitVec.ofNat 32 (egcd phi ePub).n }

/-- The state in which the coprimality check of φ stands. -/
def State.checking (s : State) (cmd : KeyCmd) (n phi : Nat) : State :=
  { s.withTotient phi with ctrl := .kgCheck cmd n phi (egcd phi ePub) }

/-- KG_ARITH and KG_EGCD. -/
theorem takeTurns_kgArith {s : State} {cmd : KeyCmd} {p q : Nat} (k : Nat) (hr : s.rst = false)
    (hk : s.ctrl = .kgArith cmd p q) (hp : 1 ≤ p) (hq : 1 ≤ q) :
    takeTurns (controllerTurns (k + 2)) s =
      takeTurns (controllerTurns k) (s.checking cmd (p * q) ((p - 1) * (q - 1))) := by
  have hstep : controllerStep s = .next (keyArith cmd p q s) := by simp only [controllerStep, hk]
  rw [keyArith, totient_of_pos s.cfg hp hq] at hstep
  rw [takeTurns_controllerTurns_succ (k + 1) hr hstep]
  exact takeTurns_controllerTurns_succ k hr rfl

/-- KG_CHECK, KG_NORM and KG_COMMIT, for a totient that is coprime to 65537. -/
theorem takeTurns_checking_commits {s : State} (cmd : KeyCmd) (n : Nat) {phi : Nat}
    (hr : s.rst = false) (hg : Nat.gcd phi 65537 = 1) :
    ∃ k d, takeTurns (controllerTurns k) (s.checking cmd n phi) =
        .next (keyCommit n d { s with iterCnt := BitVec.ofNat 32 (egcd phi ePub).n }) ∧
      65537 * d ≡ 1 [MOD phi] ∧ d < phi := by
  have hg' : (egcd phi ePub).g = 1 := (egcd_g ..).trans hg
  have hphi : 0 < phi := Nat.pos_of_ne_zero (by rintro rfl; exact absurd hg (by decide))
  have hcheck : controllerStep (s.checking cmd n phi) =
      .next { s.checking cmd n phi with ctrl := .kgNorm cmd n phi (egcd phi ePub).y } :=
    congrArg Host.Outcome.next (if_pos hg')
  obtain ⟨k, j, d, hnorm, hd, hpos, hneg⟩ := normalisationLoop
    { s.checking cmd n phi with ctrl := .kgNorm cmd n phi (egcd phi ePub).y } cmd n phi _ hr hphi rfl
  refine ⟨k + 1 + 1, d, ?_, ePub_mul_modEq_one hg' hd, ?_⟩
  · rw [takeTurns_controllerTurns_succ (s := s.checking cmd n phi) (k + 1) hr hcheck,
      controllerTurns_add, takeTurns_append_of_next hnorm]
    exact takeTurns_controllerTurns_succ 0 hr rfl
  · rcases lt_or_ge (egcd phi ePub).y 0 with h | h
    · exact hneg h
    · have hlt := egcd_ePub_y_lt hg'
      rw [hpos h] at hd
      omega

/-- From KG_ARITH with coprime φ the controller commits a key (R175, R176). -/
theorem takeTurns_kgArith_commits {s : State} {cmd : KeyCmd} {p q : Nat} (hr : s.rst = false)
    (hk : s.ctrl = .kgArith cmd p q) (hp : 1 ≤ p) (hq : 1 ≤ q)
    (hg : Nat.gcd ((p - 1) * (q - 1)) 65537 = 1) :
    ∃ k d, takeTurns (controllerTurns k) s = .next (keyCommit (p * q) d
        { s with iterCnt := BitVec.ofNat 32 (egcd ((p - 1) * (q - 1)) ePub).n }) ∧
      65537 * d ≡ 1 [MOD (p - 1) * (q - 1)] ∧ d < (p - 1) * (q - 1) := by
  obtain ⟨k, d, hrun, hd⟩ := takeTurns_checking_commits cmd (p * q) hr hg
  exact ⟨k + 2, d, (takeTurns_kgArith k hr hk hp hq).trans hrun, hd⟩

/-- The whole next state of a command that commits the key (p·q, d). -/
def State.withKey (s : State) (op : BitVec 4) (p q d : Nat) : State :=
  { s with
    lastOp := op, done := true, err := false, errCode := 0, subcause := 0, errPos := 0
    doneIP := true, keyValid := true, retryCnt := 0
    iterCnt := BitVec.ofNat 32 (egcd ((p - 1) * (q - 1)) ePub).n
    N := s.reg (p * q), D := s.reg d, P := s.reg 0, Q := s.reg 0, PHI := s.reg 0 }

/-- What the host reads of a committed key: the registers are wide enough for it (R176). -/
theorem withKey_values {s : State} {p q d : Nat} (op : BitVec 4) (hc : s.cfg.wf = true) (hp : 1 ≤ p)
    (hq : 1 ≤ q) (hn : p * q < 2 ^ s.cfg.bw) (hd : d < (p - 1) * (q - 1)) :
    (s.withKey op p q d).N.value = p * q ∧ (s.withKey op p q d).D.value = d ∧
      (s.withKey op p q d).iterCnt.toNat = (egcd ((p - 1) * (q - 1)) 65537).n := by
  have hphi := pred_mul_pred_lt hp hq
  exact ⟨value_reg hc hn, value_reg hc (by omega), toNat_ofNat_egcd_n _ hc (ePub_lt_two_pow_bw _)⟩

/-! ## DERIVE -/

/-- The state of an accepted DERIVE whose operands have passed the checks. -/
def State.withOperands (s : State) : State :=
  { startedState .derive .dvCheck s with ctrl := .kgArith .derive s.P.value s.Q.value }

/-- DV_CHECK, for operands in range (R180). -/
theorem takeTurns_startedState_derive {s : State} (k : Nat) (hr : s.rst = false)
    (hp : 2 ≤ s.P.value) (hq : 2 ≤ s.Q.value) (hn : s.P.value * s.Q.value < 2 ^ s.cfg.bw) :
    takeTurns (controllerTurns (k + 1)) (startedState .derive .dvCheck s) =
      takeTurns (controllerTurns k) s.withOperands :=
  takeTurns_controllerTurns_succ k hr
    (congrArg Host.Outcome.next (derivCheck_of_good (s := startedState .derive .dvCheck s) hp hq hn))

theorem keyCommit_derive {s : State} (hk : s.ctrl = .idle) (d : Nat) :
    keyCommit (s.P.value * s.Q.value) d { s.withOperands with
      iterCnt := BitVec.ofNat 32 (egcd ((s.P.value - 1) * (s.Q.value - 1)) ePub).n } =
      s.withKey 3 s.P.value s.Q.value d := by
  cases s
  cases hk
  rfl

/-- Settles O38: the operand checks pass, and from KG_ARITH the controller commits a key. -/
theorem deriveCommitsKey : Obligations.DeriveCommitsKey := by
  intro s hinv hs hp hq hn hg
  have hp1 : 1 ≤ s.P.value := Nat.le_of_succ_le hp
  have hq1 : 1 ≤ s.Q.value := Nat.le_of_succ_le hq
  obtain ⟨k, d, hrun, hmod, hd⟩ :=
    takeTurns_kgArith_commits (s := s.withOperands) hs.running rfl hp1 hq1 hg
  obtain ⟨hN, hD, hI⟩ := withKey_values 3 hinv.cfg hp1 hq1 hn hd
  refine ⟨startedState .derive .dvCheck s, k + 1, s.withKey 3 s.P.value s.Q.value d,
    exec_of_firstState rfl (busy_of_idle hs.idle), ?_, hN, by rwa [hD], by rwa [hD],
    hN ▸ pred_mul_pred_lt hp1 hq1, hI, rfl⟩
  rw [takeTurns_startedState_derive k hs.running hp hq hn, hrun, keyCommit_derive hs.idle]

/-- DERIVE's coprimality check fails (R172, R180). -/
theorem controllerStep_checking_derive {s : State} (n : Nat) {phi : Nat}
    (hg : Nat.gcd phi 65537 ≠ 1) :
    controllerStep (s.checking .derive n phi) =
      .next (raiseErr .notCoprime 0 (s.checking .derive n phi)) :=
  congrArg Host.Outcome.next (if_neg (egcd_g phi ePub ▸ hg))

/-- Settles O39: after KG_ARITH and KG_EGCD the coprimality check of DERIVE fails. -/
theorem deriveRejectsNonCoprime : Obligations.DeriveRejectsNonCoprime := by
  intro s hinv hs hp hq hn hg
  have hp1 : 1 ≤ s.P.value := Nat.le_of_succ_le hp
  have hq1 : 1 ≤ s.Q.value := Nat.le_of_succ_le hq
  have hphi := (pred_mul_pred_lt hp1 hq1).trans hn
  refine ⟨startedState .derive .dvCheck s, raiseErr .notCoprime 0 (startedState .derive .dvCheck
      (s.withTotient ((s.P.value - 1) * (s.Q.value - 1)))),
    exec_of_firstState rfl (busy_of_idle hs.idle), ?_, value_reg hinv.cfg hphi,
    toNat_ofNat_egcd_n _ hinv.cfg (ePub_lt_two_pow_bw _),
    raiseErr_startedState_derive (s := s.withTotient _) hs.idle .notCoprime⟩
  rw [takeTurns_startedState_derive 3 hs.running hp hq hn]
  refine (takeTurns_kgArith (s := s.withOperands) 1 hs.running rfl hp1 hq1).trans ?_
  exact takeTurns_controllerTurns_succ 0 hs.running (controllerStep_checking_derive _ hg)

/-! ## KEYGEN -/

theorem lt_two_pow_bw_of_primeBound {c : Config} {p : Nat} (h : p < c.primeBound) : p < 2 ^ c.bw :=
  h.trans_le (Nat.pow_le_pow_right two_pos (by simp only [Config.bw]; omega))

/-- The draws for p and an answer in range (R163-R165). -/
theorem takeTurns_round_p {s : State} {n p : Nat} {ws : List Word} (hc : s.cfg.wf = true)
    (hr : s.rst = false) (hk : s.ctrl = .kgDrawP n []) (hl : ws.length = s.cfg.candWords)
    (hv : BigReg.value ws ≤ p) (hp : p < s.cfg.primeBound) :
    takeTurns (randomAnswers s.reqId ws ++ [.primeAnswer (s.reqId + ws.length) false p]) s =
      .next { s with P := s.reg p, ctrl := .kgDrawQ n p [], reqId := s.reqId + ws.length + 1 } := by
  rw [takeTurns_append_of_next ((drawRound_p n).takeTurns_candidate hc hr hk hl)]
  refine (takeTurns_cons (takeTurn_primeAnswer_p (s := { s with
    ctrl := .kgPrimeP n (BigReg.value ws), reqId := s.reqId + ws.length }) false hr
    (lt_two_pow_bw_of_primeBound hp) rfl)).trans ?_
  rw [primeP_eq, if_neg nofun, if_neg hv.not_gt, if_neg hp.not_ge]
  rfl

/-- The draws for q and an answer in range (R163-R165). -/
theorem takeTurns_round_q {s : State} {n p q : Nat} {ws : List Word} (hc : s.cfg.wf = true)
    (hr : s.rst = false) (hk : s.ctrl = .kgDrawQ n p []) (hl : ws.length = s.cfg.candWords)
    (hv : BigReg.value ws ≤ q) (hq : q < s.cfg.primeBound) :
    takeTurns (randomAnswers s.reqId ws ++ [.primeAnswer (s.reqId + ws.length) false q]) s =
      .next { s with
        Q := s.reg q, ctrl := .kgArith (.keygen n) p q, reqId := s.reqId + ws.length + 1 } := by
  rw [takeTurns_append_of_next ((drawRound_q n p).takeTurns_candidate hc hr hk hl)]
  refine (takeTurns_cons (takeTurn_primeAnswer_q (s := { s with
    ctrl := .kgPrimeQ n p (BigReg.value ws), reqId := s.reqId + ws.length }) false hr
    (lt_two_pow_bw_of_primeBound hq) rfl)).trans ?_
  rw [primeQ_eq, if_neg nofun, if_neg hv.not_gt, if_neg hq.not_ge]
  rfl

/-- The state of an accepted KEYGEN that has its two primes. -/
def State.withPrimes (s : State) (p q id : Nat) : State :=
  { startedState .keygen (.kgDrawP 0 []) s with
    P := s.reg p, Q := s.reg q, ctrl := .kgArith (.keygen 0) p q, reqId := id }

/-- The answers of a first attempt (R165, R166). -/
theorem takeTurns_startedState_keygen {s : State} {wp wq : List Word} {p q : Nat}
    (hc : s.cfg.wf = true) (hr : s.rst = false) (hlp : wp.length = s.cfg.candWords)
    (hlq : wq.length = s.cfg.candWords) (hvp : BigReg.value wp ≤ p) (hvq : BigReg.value wq ≤ q)
    (hp : p < s.cfg.primeBound) (hq : q < s.cfg.primeBound) :
    takeTurns
      (randomAnswers s.reqId wp ++ [.primeAnswer (s.reqId + wp.length) false p] ++
        randomAnswers (s.reqId + wp.length + 1) wq ++
        [.primeAnswer (s.reqId + wp.length + 1 + wq.length) false q])
      (startedState .keygen (.kgDrawP 0 []) s) =
      .next (s.withPrimes p q (s.reqId + wp.length + wq.length + 2)) := by
  have hround := takeTurns_round_p (s := startedState .keygen (.kgDrawP 0 []) s) hc hr rfl hlp hvp hp
  have hid : s.reqId + wp.length + wq.length + 2 = s.reqId + wp.length + 1 + wq.length + 1 := by omega
  rw [List.append_assoc (_ ++ _), hid]
  exact (takeTurns_append_of_next hround).trans (takeTurns_round_q (s :=
    { startedState .keygen (.kgDrawP 0 []) s with
      P := s.reg p, ctrl := .kgDrawQ 0 p [], reqId := s.reqId + wp.length + 1 })
    hc hr rfl hlq hvq hq)

theorem keyCommit_keygen {s : State} (hk : s.ctrl = .idle) (p q d id : Nat) :
    keyCommit (p * q) d { s.withPrimes p q id with
      iterCnt := BitVec.ofNat 32 (egcd ((p - 1) * (q - 1)) ePub).n } =
      { s.withKey 2 p q d with reqId := id } := by
  cases s
  cases hk
  rfl

/-- Settles O40: after the answers the controller commits a key from KG_ARITH, as for DERIVE. -/
theorem keygenCommitsKey : Obligations.KeygenCommitsKey := by
  intro s wp wq p q hinv hs hlp hlq hp hq hvp hvq hbp hbq hg
  have hp1 : 1 ≤ p := Nat.le_of_succ_le hp
  have hq1 : 1 ≤ q := Nat.le_of_succ_le hq
  have hanswers := takeTurns_startedState_keygen hinv.cfg hs.running hlp hlq hvp hvq hbp hbq
  obtain ⟨k, d, hrun, hmod, hd⟩ := takeTurns_kgArith_commits
    (s := s.withPrimes p q (s.reqId + wp.length + wq.length + 2))
    hs.running rfl hp1 hq1 hg
  obtain ⟨hN, hD, hI⟩ := withKey_values 2 hinv.cfg hp1 hq1 (mul_lt_of_primeBound hinv.cfg hbp hbq) hd
  refine ⟨startedState .keygen (.kgDrawP 0 []) s, k,
    { s.withKey 2 p q d with reqId := s.reqId + wp.length + wq.length + 2 },
    exec_of_firstState rfl (busy_of_idle hs.idle), ?_, hN, by rwa [hD], by rwa [hD],
    hN ▸ pred_mul_pred_lt hp1 hq1, hI, rfl⟩
  rw [takeTurns_append_of_next hanswers, hrun, keyCommit_keygen hs.idle]

end Sys2Proof.Machine
end

section
/-!
The digit strings that DECODE accepts, and the format errors of the others (spec/42_codec.md R210-R214).
A digit string is first brought into the shape that the search for the delimiter gives it: a header, a
filler with no 0, and what follows from the first 0 on.
-/

namespace Sys2Proof.Machine

/-! ## Message groups -/

/-- The three digits of a message byte, as numbers (R204). -/
def byteDigits (b : Byte) : List Nat := [b.toNat / 100, b.toNat / 10 % 10, b.toNat % 10]

theorem lt_of_mem_byteDigits {b : Byte} {d : Nat} (h : d ∈ byteDigits b) : d < 10 := by
  have hb := b.isLt
  simp only [byteDigits, List.mem_cons, List.not_mem_nil, or_false] at h
  omega

theorem length_flatMap_byteDigits (msg : List Byte) :
    (msg.flatMap byteDigits).length = 3 * msg.length := by
  simp [List.length_flatMap, byteDigits, Nat.mul_comm]

/-- Three digits with a value above 255 are no group (R210). -/
theorem decodeGroups_of_gt {a b c : Nat} (h : 255 < 100 * a + 10 * b + c) (pos : Nat)
    (rest : List Nat) : decodeGroups pos (a :: b :: c :: rest) = .error (.codeRange, pos) := by
  simp [decodeGroups, h]

/-- A group with a value up to 255 is the byte of that value, and the groups after it are decoded. -/
theorem decodeGroups_of_le {a b c : Nat} (h : 100 * a + 10 * b + c ≤ 255) (pos : Nat)
    (rest : List Nat) : decodeGroups pos (a :: b :: c :: rest) =
      (decodeGroups (pos + 3) rest).map (BitVec.ofNat 8 (100 * a + 10 * b + c) :: ·) := by
  simp only [decodeGroups, if_neg h.not_gt]
  cases decodeGroups (pos + 3) rest <;> rfl

/-- The digits of a byte are a group, and decode to the byte. -/
theorem decodeGroups_byteDigits (b : Byte) (pos : Nat) (rest : List Nat) :
    decodeGroups pos (byteDigits b ++ rest) = (decodeGroups (pos + 3) rest).map (b :: ·) := by
  have hb := b.isLt
  have hv : 100 * (b.toNat / 100) + 10 * (b.toNat / 10 % 10) + b.toNat % 10 = b.toNat := by omega
  refine (decodeGroups_of_le (by omega) pos rest).trans ?_
  rw [hv, BitVec.ofNat_toNat, BitVec.setWidth_eq]

/-- The groups of a message decode to it, whatever follows them. -/
theorem decodeGroups_flatMap_byteDigits (msg : List Byte) (pos : Nat) (rest : List Nat) :
    decodeGroups pos (msg.flatMap byteDigits ++ rest) =
      (decodeGroups (pos + 3 * msg.length) rest).map (msg ++ ·) := by
  induction msg generalizing pos with
  | nil => cases h : decodeGroups pos rest <;> simp [h, Except.map]
  | cons b msg ih =>
    have hpos : pos + 3 + 3 * msg.length = pos + 3 * (b :: msg).length := by
      rw [List.length_cons]; omega
    rw [List.flatMap_cons, List.append_assoc, decodeGroups_byteDigits, ih, hpos]
    cases decodeGroups (pos + 3 * (b :: msg).length) rest <;> rfl

/-- A group of digits is the one of its byte. -/
theorem byteDigits_ofNat {a b c : Nat} (hb : b < 10) (hc : c < 10)
    (h : 100 * a + 10 * b + c ≤ 255) :
    byteDigits (BitVec.ofNat 8 (100 * a + 10 * b + c)) = [a, b, c] := by
  have hv : (BitVec.ofNat 8 (100 * a + 10 * b + c)).toNat = 100 * a + 10 * b + c := by
    rw [BitVec.toNat_ofNat]; omega
  rw [byteDigits, hv, show (100 * a + 10 * b + c) / 100 = a by omega,
    show (100 * a + 10 * b + c) / 10 % 10 = b by omega, show (100 * a + 10 * b + c) % 10 = c by omega]

/-- Digits that decode to a message are its groups. -/
theorem eq_flatMap_of_decodeGroups {pos : Nat} {ds : List Nat} {msg : List Byte}
    (hd : ∀ d ∈ ds, d < 10) (h3 : ds.length % 3 = 0) (h : decodeGroups pos ds = .ok msg) :
    ds = msg.flatMap byteDigits := by
  match ds with
  | [] => cases h; rfl
  | [_] | [_, _] => cases h3
  | a :: b :: c :: rest =>
    by_cases hv : 255 < 100 * a + 10 * b + c
    · rw [decodeGroups_of_gt hv] at h; cases h
    · rw [decodeGroups_of_le (Nat.le_of_not_gt hv)] at h
      cases hout : decodeGroups (pos + 3) rest with
      | error e => rw [hout] at h; cases h
      | ok out =>
        rw [hout] at h
        cases h
        rw [List.flatMap_cons, byteDigits_ofNat (hd b (by simp)) (hd c (by simp)) (Nat.le_of_not_gt hv),
          ← eq_flatMap_of_decodeGroups (fun d hm => hd d (by simp [hm]))
            ((Nat.add_mod_right rest.length 3).symm.trans h3) hout]
        rfl

/-- The groups give a CODE_RANGE error at a digit of theirs. -/
theorem decodeGroups_error {pos : Nat} {ds : List Nat} {e : Malformed}
    (h : decodeGroups pos ds = .error e) : e.1 = .codeRange ∧ e.2 ≤ pos + ds.length := by
  match ds with
  | [] | [_] | [_, _] => cases h
  | a :: b :: c :: rest =>
    by_cases hv : 255 < 100 * a + 10 * b + c
    · rw [decodeGroups_of_gt hv] at h
      cases h
      exact ⟨rfl, Nat.le_add_right ..⟩
    · rw [decodeGroups_of_le (Nat.le_of_not_gt hv)] at h
      cases hrest : decodeGroups (pos + 3) rest with
      | ok out => rw [hrest] at h; cases h
      | error e' =>
        rw [hrest] at h
        cases h
        obtain ⟨hcause, hpos⟩ := decodeGroups_error hrest
        refine ⟨hcause, ?_⟩
        simp only [List.length_cons]; omega

/-! ## The search for the delimiter -/

/-- A filler with no 0 is passed over (R213). -/
theorem firstZero_append {f : List Nat} (hf : ∀ d ∈ f, d ≠ 0) (i : Nat) (rest : List Nat) :
    firstZero i (f ++ rest) = firstZero (i + f.length) rest := by
  induction f generalizing i with
  | nil => rfl
  | cons d f ih =>
    rw [List.cons_append, firstZero, if_neg (hf d (by simp)), ih fun d hd => hf d (by simp [hd]),
      List.length_cons, show i + 1 + f.length = i + (f.length + 1) by omega]

/-- A block too short for its header (R210). -/
theorem decodeDigits_of_short {ds : List Nat} (h : ds.length < 6) :
    decodeDigits ds = .error (.noDelimiter, ds.length) := by
  rw [decodeDigits]; exact if_pos h

section
variable {h f : List Nat} (hh : h.length = 6) (hf : ∀ d ∈ f, d ≠ 0)
include hh hf

/-- The search ends behind the filler, or passes it over. -/
theorem firstZero_drop (rest : List Nat) :
    firstZero 6 ((h ++ f ++ rest).drop 6) = firstZero (6 + f.length) rest := by
  rw [List.append_assoc, List.drop_left' hh, firstZero_append hf]

/-- No 0 follows the header (R213). -/
theorem decodeDigits_of_noZero : decodeDigits (h ++ f) = .error (.noDelimiter, 6 + f.length) := by
  have hz := firstZero_drop hh hf []
  rw [List.append_nil, firstZero] at hz
  have hlen : (h ++ f).length = 6 + f.length := by rw [List.length_append, hh]
  simp only [decodeDigits, hz, hlen]
  rw [if_neg (by omega), if_pos trivial]

/-- The delimiter is cut (R210). -/
theorem decodeDigits_of_cut {rest : List Nat} (hr : rest.length < 2) :
    decodeDigits (h ++ f ++ 0 :: rest) = .error (.noDelimiter, 6 + f.length) := by
  have hz := firstZero_drop hh hf (0 :: rest)
  rw [firstZero, if_pos rfl] at hz
  have hlen : (h ++ f ++ 0 :: rest).length = 6 + f.length + (rest.length + 1) := by
    rw [List.length_append, List.length_append, hh, List.length_cons]
  simp only [decodeDigits, hz, hlen]
  rw [if_neg (by omega), if_neg (by omega), if_pos (by omega)]

/-- The checks from the delimiter on (R210, R213). -/
theorem decodeDigits_of_zero (d e : Nat) (rest : List Nat) :
    decodeDigits (h ++ f ++ [0, d, e] ++ rest) =
      if d ≠ 0 then .error (.badDelimiter, 6 + f.length + 1)
      else if e ≠ 0 then .error (.badDelimiter, 6 + f.length + 2)
      else if rest.length % 3 ≠ 0 then
        .error (.truncatedGroup, 9 + f.length + rest.length - rest.length % 3)
      else decodeGroups (9 + f.length) rest := by
  have hz : firstZero 6 ((h ++ f ++ [0, d, e] ++ rest).drop 6) = 6 + f.length := by
    rw [List.append_assoc (h ++ f), firstZero_drop hh hf]; exact if_pos rfl
  have hlen : (h ++ f ++ [0, d, e] ++ rest).length = 9 + f.length + rest.length := by
    simp [hh]; omega
  have hget (k : Nat) :
      (h ++ f ++ [0, d, e] ++ rest).getD (6 + f.length + k) 0 = ([0, d, e] ++ rest).getD k 0 := by
    rw [List.append_assoc (h ++ f), List.getD_append_right _ _ _ _ (by simp [hh])]
    simp [hh]
  have hdrop : (h ++ f ++ [0, d, e] ++ rest).drop (6 + f.length + 3) = rest :=
    List.drop_left' (by simp [hh]; omega)
  have hgroups : 9 + f.length + rest.length - (6 + f.length + 3) = rest.length := by omega
  simp only [decodeDigits, hz, hlen, hget, hdrop, hgroups]
  rw [if_neg (by omega), if_neg (by omega), if_neg (by omega),
    show 6 + f.length + 3 = 9 + f.length by omega]
  rfl

/-- Behind a whole delimiter the groups are decoded (R210). -/
theorem decodeDigits_of_delimiter {rest : List Nat} (h3 : rest.length % 3 = 0) :
    decodeDigits (h ++ f ++ [0, 0, 0] ++ rest) = decodeGroups (9 + f.length) rest := by
  rw [decodeDigits_of_zero hh hf, if_neg (not_not.mpr rfl), if_neg (not_not.mpr rfl),
    if_neg (not_not.mpr h3)]

/-- A block decodes to its message (R215). -/
theorem decodeDigits_block (msg : List Byte) :
    decodeDigits (h ++ f ++ [0, 0, 0] ++ msg.flatMap byteDigits) = .ok msg := by
  have hgroups := decodeGroups_flatMap_byteDigits msg (9 + f.length) []
  rw [List.append_nil] at hgroups
  rw [decodeDigits_of_delimiter hh hf (by rw [length_flatMap_byteDigits]; omega), hgroups]
  exact congrArg Except.ok (List.append_nil msg)

end

/-- What the search finds in digits that hold a header: a filler, and no 0, a cut delimiter, or three
digits of one. -/
theorem header_filler_cases {ds : List Nat} (hl : 6 ≤ ds.length) :
    ∃ h f : List Nat, h.length = 6 ∧ (∀ d ∈ f, d ≠ 0) ∧
      (ds = h ++ f ∨ (∃ rest, rest.length < 2 ∧ ds = h ++ f ++ 0 :: rest) ∨
        ∃ d e rest, ds = h ++ f ++ [0, d, e] ++ rest) := by
  have hsplit : ds = ds.take 6 ++ (ds.drop 6).takeWhile (· ≠ 0) ++ (ds.drop 6).dropWhile (· ≠ 0) := by
    rw [List.append_assoc, List.takeWhile_append_dropWhile, List.take_append_drop]
  refine ⟨ds.take 6, (ds.drop 6).takeWhile (· ≠ 0), List.length_take_of_le hl,
    fun d hd => by simpa using List.mem_takeWhile_imp hd, ?_⟩
  cases hrest : (ds.drop 6).dropWhile (· ≠ 0) with
  | nil => rw [hrest, List.append_nil] at hsplit; exact .inl hsplit
  | cons z rest =>
    obtain rfl : z = 0 := by
      have hhead := List.head?_dropWhile_not (· ≠ 0) (ds.drop 6)
      rw [hrest] at hhead
      simpa using hhead
    rw [hrest] at hsplit
    match rest with
    | [] => exact .inr (.inl ⟨[], by simp, hsplit⟩)
    | [d] => exact .inr (.inl ⟨[d], by simp, hsplit⟩)
    | d :: e :: rest =>
      exact .inr (.inr ⟨d, e, rest, hsplit.trans (List.append_assoc _ [0, d, e] rest).symm⟩)

/-- Digits that decode have a header, a filler with no 0, a delimiter, and the groups of the message. -/
theorem block_of_decodeDigits {ds : List Nat} {msg : List Byte} (hd : ∀ d ∈ ds, d < 10)
    (h : decodeDigits ds = .ok msg) :
    ∃ hdr f : List Nat, hdr.length = 6 ∧ (∀ d ∈ f, d ≠ 0) ∧
      ds = hdr ++ f ++ [0, 0, 0] ++ msg.flatMap byteDigits := by
  have hl : 6 ≤ ds.length := by
    by_contra hl
    rw [decodeDigits_of_short (Nat.lt_of_not_le hl)] at h
    cases h
  obtain ⟨hdr, f, hh, hf, rfl | ⟨rest, hr, rfl⟩ | ⟨d, e, rest, rfl⟩⟩ := header_filler_cases hl
  · rw [decodeDigits_of_noZero hh hf] at h; cases h
  · rw [decodeDigits_of_cut hh hf hr] at h; cases h
  · rw [decodeDigits_of_zero hh hf] at h
    split_ifs at h with hz he h3
    obtain rfl : d = 0 := not_not.mp hz
    obtain rfl : e = 0 := not_not.mp he
    rw [← eq_flatMap_of_decodeGroups (fun d hm => hd d (List.mem_append_right _ hm))
      (not_not.mp h3) h]
    exact ⟨hdr, f, hh, hf, rfl⟩

/-- Settles O43: a block decodes to its message, and the search for the delimiter shows the shape of
whatever decodes. -/
theorem decodeAcceptsExactlyBlocks : Obligations.DecodeAcceptsExactlyBlocks := by
  intro ds msg hd
  constructor
  · exact block_of_decodeDigits hd
  · rintro ⟨h, f, hh, hf, rfl⟩
    exact decodeDigits_block hh hf msg

/-- Settles O47: each clause is the check that fails first in its shape of digits. -/
theorem decodeFormatErrors : Obligations.DecodeFormatErrors := by
  refine ⟨fun _ => decodeDigits_of_short, fun h f hh hf => ⟨decodeDigits_of_noZero hh hf,
    decodeDigits_of_cut hh hf (by simp), fun d => decodeDigits_of_cut hh hf (by simp),
    fun d e rest hd => ?_, fun e rest he => ?_, fun rest h3 => ?_, fun msg a b c rest h3 hv => ?_⟩⟩
  · rw [decodeDigits_of_zero hh hf, if_pos hd]
  · rw [decodeDigits_of_zero hh hf, if_neg (not_not.mpr rfl), if_pos he]
  · rw [decodeDigits_of_zero hh hf, if_neg (not_not.mpr rfl), if_neg (not_not.mpr rfl), if_pos h3]
  · have h3' : (msg.flatMap byteDigits ++ ([a, b, c] ++ rest)).length % 3 = 0 := by
      rw [List.length_append, length_flatMap_byteDigits]; simp; omega
    have hgroups := decodeDigits_of_delimiter hh hf h3'
    rw [decodeGroups_flatMap_byteDigits] at hgroups
    rw [List.append_assoc, List.append_assoc]
    exact hgroups.trans (congrArg _ (decodeGroups_of_gt hv _ rest))

end Sys2Proof.Machine
end

section
/-!
The DECODE command: the scan of the block's bytes, the step DE_RUN for each of its outcomes, and the
command as a whole (spec/42_codec.md R210, R211; spec/10_state.md R52).
-/

namespace Sys2Proof.Machine

/-! ## The scan -/

/-- The characters of digits scan to the digits. -/
theorem scanDigits_map_chr {ds : List Nat} (h : ∀ d ∈ ds, d < 10) (j : Nat) :
    scanDigits j (ds.map fun d => some (chr d)) = .digits ds := by
  have hscan := scanDigits_digits (ds.map chr) j (by simpa using fun d hd => (isDig_chr (h d hd)).1)
  rw [List.map_map, List.map_map] at hscan
  exact hscan.trans (congrArg DigitScan.digits
    ((List.map_congr_left fun d hd => (isDig_chr (h d hd)).2).trans (List.map_id ds)))

/-- The scan passes a digit over: where it stops in the bytes after it, it stops as a whole. -/
theorem scanDigits_cons_of_stop {b : Byte} (hb : isDig b = true) {j : Nat} {l : List (Option Byte)}
    {r : DigitScan} (h : scanDigits (j + 1) l = r) (hr : ∀ ds, r ≠ .digits ds) :
    scanDigits j (some b :: l) = r := by
  rw [scanDigits, if_pos hb, h]
  cases r with
  | digits ds => exact absurd rfl (hr ds)
  | notDigit i => rfl
  | unwritten i => rfl

/-- Behind `j` digits the scan ends at a byte that is no digit, and at one that is not written. -/
theorem scanDigits_of_digits_before {l : List (Option Byte)} {j : Nat} (k : Nat)
    (h : ∀ i, i < j → ∃ b, l[i]? = some (some b) ∧ isDig b = true) :
    (∀ b, l[j]? = some (some b) → isDig b = false → scanDigits k l = .notDigit (k + j)) ∧
      (l[j]? = some none → scanDigits k l = .unwritten (k + j)) := by
  induction l generalizing j k with
  | nil => exact ⟨nofun, nofun⟩
  | cons o l ih =>
    cases j with
    | zero =>
      refine ⟨fun b hb hdig => ?_, fun hb => ?_⟩ <;> cases hb
      · simp [scanDigits, hdig]
      · rfl
    | succ j =>
      obtain ⟨b, hb, hdig⟩ := h 0 (Nat.succ_pos j)
      cases hb
      obtain ⟨hbad, hnone⟩ := ih (k + 1) fun i hi => h (i + 1) (Nat.succ_lt_succ hi)
      rw [show k + (j + 1) = k + 1 + j by omega]
      exact ⟨fun c hc hcd => scanDigits_cons_of_stop hdig (hbad c hc hcd) nofun,
        fun hc => scanDigits_cons_of_stop hdig (hnone hc) nofun⟩

/-! ## The errors of the digits -/

theorem firstZero_le (i : Nat) (ds : List Nat) : firstZero i ds ≤ i + ds.length := by
  induction ds generalizing i with
  | nil => exact Nat.le_refl i
  | cons d ds ih =>
    have hnext := ih (i + 1)
    rw [firstZero, List.length_cons]
    split <;> omega

/-- A format error is one of four causes, at a position in the block or at its end (spec/60_exceptions.md
Table T60.1). -/
theorem decodeDigits_error {ds : List Nat} {c : ErrCause} {pos : Nat}
    (h : decodeDigits ds = .error (c, pos)) :
    (c = .noDelimiter ∨ c = .badDelimiter ∨ c = .truncatedGroup ∨ c = .codeRange) ∧
      pos ≤ ds.length := by
  have hz := firstZero_le 6 (ds.drop 6)
  rw [List.length_drop] at hz
  simp only [decodeDigits] at h
  split_ifs at h
  case neg =>
    obtain ⟨hcause, hpos⟩ := decodeGroups_error h
    rw [List.length_drop] at hpos
    exact ⟨.inr (.inr (.inr hcause)), by simp only at hpos; omega⟩
  all_goals cases h; exact ⟨by simp, by omega⟩

/-! ## DE_RUN -/

theorem decodeRun_of_long {s : State} (h : s.cfg.dcap < s.blkLen.toNat) :
    decodeRun s = .next (raiseErr .badLength 0 s) := by
  rw [decodeRun]; exact if_pos h

section
variable {s : State} (hn : s.blkLen.toNat ≤ s.cfg.dcap)
include hn

theorem decodeRun_of_notDigit {j : Nat}
    (h : scanDigits 0 (s.bufBytes .blk s.blkLen.toNat) = .notDigit j) :
    decodeRun s = .next (raiseErr .nonDigit j s) := by
  simp only [decodeRun, if_neg hn.not_gt, h]

theorem decodeRun_of_unwritten {j : Nat}
    (h : scanDigits 0 (s.bufBytes .blk s.blkLen.toNat) = .unwritten j) :
    decodeRun s = .fault (.uninitRead (0x3400 + j)) := by
  simp only [decodeRun, if_neg hn.not_gt, h]; rfl

section
variable {ds : List Nat} (hd : ∀ d ∈ ds, d < 10)
  (hb : s.bufBytes .blk s.blkLen.toNat = ds.map fun d => some (chr d))
include hd hb

theorem decodeRun_of_error {c : ErrCause} {pos : Nat} (h : decodeDigits ds = .error (c, pos)) :
    decodeRun s = .next (raiseErr c pos s) := by
  simp only [decodeRun, if_neg hn.not_gt, hb, scanDigits_map_chr hd, h]

theorem decodeRun_of_ok {msg : List Byte} (h : decodeDigits ds = .ok msg) :
    decodeRun s = .next (decodeWrite msg s) := by
  simp only [decodeRun, if_neg hn.not_gt, hb, scanDigits_map_chr hd, h]

omit hd in
/-- The block has as many digits as BLK_LEN says. -/
theorem length_digits_le : ds.length ≤ s.cfg.dcap := by
  have hlen := congrArg List.length hb
  rw [State.bufBytes, Memory.length_readBytes, List.length_map] at hlen
  exact hlen ▸ hn

end
end

/-- Everything that DE_RUN does when it goes on: a MALFORMED_BLOCK, or a message. -/
theorem decodeRun_cases {s t : State} (h : decodeRun s = .next t) :
    (∃ c pos, c.code = 3 ∧ t = raiseErr c pos s) ∨ ∃ msg, t = decodeWrite msg s := by
  simp only [decodeRun] at h
  split at h
  · cases h; exact .inl ⟨_, _, rfl, rfl⟩
  · split at h
    · cases h
    · cases h; exact .inl ⟨_, _, rfl, rfl⟩
    · split at h <;> cases h
      · exact .inl ⟨_, _, code_of_decodeDigits ‹_›, rfl⟩
      · exact .inr ⟨_, rfl⟩

theorem takeTurn_deRun {s : State} (hr : s.rst = false) (hk : s.ctrl = .deRun) :
    takeTurn .controller s = decodeRun s := by
  rw [takeTurn_controller hr, controllerStep, hk]

/-- The whole next state of a DECODE that fails. -/
theorem raiseErr_of_code {s : State} {c : ErrCause} (hc : c.code = 3) (pos : Nat) :
    raiseErr c pos s = { s with
      ctrl := .idle, err := true, errCode := 3, subcause := c.sub, errPos := BitVec.ofNat 16 pos
      errIP := true } := by
  rw [raiseErr, hc]

/-- A position in a block fits ERR_POS (spec/10_state.md R36). -/
theorem toNat_ofNat_of_le_dcap {c : Config} (hc : c.wf = true) {n : Nat} (h : n ≤ c.dcap) :
    (BitVec.ofNat 16 n).toNat = n := by
  obtain ⟨k, -, hk, hK⟩ := keyBits_of_wf hc
  rw [BitVec.toNat_ofNat, Nat.mod_eq_of_lt]
  simp only [Config.dcap] at h; omega

/-- Settles O45: DE_RUN raises an error or completes, and a format error is raised as it is found. -/
theorem decodeErrorWritesNothing : Obligations.DecodeErrorWritesNothing := by
  refine ⟨fun s u _ hr hk hu hdone => ?_, fun s ds c pos hinv hr hk hn hd hb hdec => ?_⟩
  · rw [takeTurn_deRun hr hk] at hu
    obtain ⟨c, pos, hc, rfl⟩ | ⟨msg, rfl⟩ := decodeRun_cases hu
    · exact raiseErr_of_code hc pos
    · cases hdone
  · obtain ⟨hcause, hpos⟩ := decodeDigits_error hdec
    refine ⟨raiseErr c pos s, (takeTurn_deRun hr hk).trans (decodeRun_of_error hn hd hb hdec), ?_,
      toNat_ofNat_of_le_dcap hinv.cfg (hpos.trans (length_digits_le hn hb)),
      raiseErr_of_code (code_of_decodeDigits hdec) pos⟩
    rcases hcause with rfl | rfl | rfl | rfl <;> simp [ErrCause.sub]

/-- Settles O46: the scan decides, and it ends at the first byte that is no written digit. -/
theorem decodeLengthAndDigitChecks : Obligations.DecodeLengthAndDigitChecks := by
  intro s _ hr hk
  rw [takeTurn_deRun hr hk]
  refine ⟨decodeRun_of_long, fun hn j hj hbefore => ?_⟩
  have hget {i : Nat} (hi : i < s.blkLen.toNat) :
      (s.bufBytes .blk s.blkLen.toNat)[i]? = some (s.bufByte .blk i) :=
    (Memory.getElem?_readBytes ..).trans (if_pos hi)
  obtain ⟨hbad, hnone⟩ := scanDigits_of_digits_before (l := s.bufBytes .blk s.blkLen.toNat) (j := j) 0
    fun i hi => by
      obtain ⟨b, hb, hdig⟩ := hbefore i hi
      exact ⟨b, by rw [hget (hi.trans hj), hb], by simpa [isDig] using hdig⟩
  rw [hget hj, Nat.zero_add] at hbad hnone
  exact ⟨fun b hb hdig => decodeRun_of_notDigit hn
      (hbad b (congrArg some hb) (by simpa [isDig] using hdig)),
    fun hb => decodeRun_of_unwritten hn (hnone (congrArg some hb))⟩

/-! ## The command -/

/-- The bytes that a write at the start of a buffer leaves in it. -/
theorem bufBytes_writeBuf (s : State) (b : Buf) (bs : List Byte) :
    (s.writeBuf b bs).bufBytes b bs.length = bs.map some := Memory.readBytes_writeBytes ..

/-- A write at the start of a buffer leaves every byte outside of it. -/
theorem read_writeBuf_of_outside {b : Buf} {bs : List Byte} {a : Nat} (s : State)
    (h : a < b.offset ∨ b.offset + bs.length ≤ a) :
    (s.writeBuf b bs).mem.read a = s.mem.read a :=
  (Memory.read_writeBytes ..).trans (if_neg (by omega))

/-- The whole next state of a DECODE command: the message with its length, and the outcome fields. -/
def State.afterDecode (s : State) (msg : List Byte) : State :=
  { s.writeBuf .msg msg with
    lastOp := 5, done := true, err := false, errCode := 0, subcause := 0, errPos := 0
    doneIP := true, msgLen := BitVec.ofNat 16 msg.length }

theorem decodeWrite_startedState {s : State} (hk : s.ctrl = .idle) (msg : List Byte) :
    decodeWrite msg (startedState .decode .deRun s) = s.afterDecode msg := by
  cases s
  cases hk
  rfl

/-- DECODE of a written block, in every idle state: the controller's step after the issue. -/
theorem takeTurn_startedState_decode {s : State} {ds : List Nat} {msg : List Byte} (hs : s.Ready)
    (hn : s.blkLen.toNat ≤ s.cfg.dcap) (hd : ∀ d ∈ ds, d < 10)
    (hb : s.bufBytes .blk s.blkLen.toNat = ds.map fun d => some (chr d))
    (hdec : decodeDigits ds = .ok msg) :
    takeTurn .controller (startedState .decode .deRun s) = .next (s.afterDecode msg) := by
  have hrun := decodeRun_of_ok (s := startedState .decode .deRun s) hn hd hb hdec
  rw [takeTurn_deRun (s := startedState .decode .deRun s) hs.running rfl, hrun,
    decodeWrite_startedState hs.idle]

/-- A message that fits MSG has a length that fits MSG_LEN (spec/10_state.md R34). -/
theorem afterDecode_msgLen {s : State} {msg : List Byte} (hc : s.cfg.wf = true)
    (h : msg.length ≤ s.cfg.lmax) : (s.afterDecode msg).msgLen.toNat = msg.length :=
  toNat_ofNat_of_le_dcap hc (h.trans (by simp only [Config.lmax]; omega))

/-- Settles O44: the issue starts DE_RUN, and its step writes the message. -/
theorem decodeCommandCompletes : Obligations.DecodeCommandCompletes := by
  intro s ds msg hinv hs hn hd hb hdec
  have hroom : msg.length ≤ s.cfg.lmax := by
    have hlen := length_of_decodeDigits hdec
    have hcap := length_digits_le hn hb
    simp only [Config.lmax]; omega
  exact ⟨hroom, startedState .decode .deRun s, s.afterDecode msg,
    exec_of_firstState rfl (busy_of_idle hs.idle), takeTurn_startedState_decode hs hn hd hb hdec,
    bufBytes_writeBuf s .msg msg, fun _ => read_writeBuf_of_outside (b := .msg) s,
    afterDecode_msgLen hinv.cfg hroom, rfl⟩

end Sys2Proof.Machine
end

section
/-!
The ENCODE command: the length check, the draws of the filler, the block, and the round trip through
DECODE (spec/42_codec.md R200-R204, R215).
-/

namespace Sys2Proof.Machine

/-! ## The length check -/

theorem takeTurn_enRun_none {s : State} (hr : s.rst = false) (hk : s.ctrl = .enRun none) :
    takeTurn .controller s = .next (encodeCheck s) := by
  rw [takeTurn_controller hr, controllerStep, hk]

theorem encodeCheck_of_long {s : State} (h : s.cfg.lmax < s.msgLen.toNat) :
    encodeCheck s = raiseErr .lengthExceeded 0 s := if_pos h

theorem encodeCheck_of_le {s : State} (h : s.msgLen.toNat ≤ s.cfg.lmax) :
    encodeCheck s = { s with ctrl := .enRun (some []) } := if_neg h.not_gt

/-- A word is requested while the filler is short of its length (spec/10_state.md R51). -/
theorem request_enRun {s : State} {filler : List Byte} (hk : s.ctrl = .enRun (some filler)) :
    s.request = some .randomWord ↔ filler.length < s.fillerLen := by
  simp [State.request, hk]

/-- The whole next state of an ENCODE that fails. -/
theorem raiseErr_startedState_encode {s : State} (hk : s.ctrl = .idle) :
    raiseErr .lengthExceeded 0 (startedState .encode (.enRun none) s) = { s with
      lastOp := 4, done := false, err := true, errCode := 2, subcause := 0, errPos := 0
      errIP := true } := by
  cases s
  cases hk
  rfl

/-- The state of an accepted ENCODE that has drawn these filler digits. -/
def State.withFiller (s : State) (filler : List Byte) (id : Nat) : State :=
  { startedState .encode (.enRun none) s with ctrl := .enRun (some filler), reqId := id }

/-- Settles O41: the first step of ENCODE is the length check. -/
theorem encodeLengthBound : Obligations.EncodeLengthBound := by
  intro s hs
  refine ⟨startedState .encode (.enRun none) s, encodeCheck (startedState .encode (.enRun none) s),
    exec_of_firstState rfl (busy_of_idle hs.idle), rfl,
    takeTurn_enRun_none (s := startedState .encode (.enRun none) s) hs.running rfl,
    fun hlong => ?_, fun hle => ?_⟩
  · rw [encodeCheck_of_long (s := startedState .encode (.enRun none) s) hlong,
      raiseErr_startedState_encode hs.idle]
  · rw [encodeCheck_of_le (s := startedState .encode (.enRun none) s) hle]
    exact ⟨rfl, rfl, rfl, request_enRun (s := s.withFiller [] s.reqId) rfl⟩

/-! ## The draws and the block -/

/-- The missing words of a filler, answered in order, complete it (R203). -/
theorem takeTurns_draw_filler {s : State} {pre : List Byte} {ws : List Word} (hr : s.rst = false)
    (hk : s.ctrl = .enRun (some pre)) (hl : pre.length + ws.length = s.fillerLen) :
    takeTurns (randomAnswers s.reqId ws) s = .next { s with
      ctrl := .enRun (some (pre ++ ws.map fillerDigit)), reqId := s.reqId + ws.length } := by
  induction ws generalizing s pre with
  | nil => rw [List.map_nil, List.append_nil, ← hk]; rfl
  | cons w ws ih =>
    rw [List.length_cons] at hl
    have hq : s.request = some .randomWord := (request_enRun hk).mpr (by omega)
    have htake : takeWord w { s with reqId := s.reqId + 1 } =
        { s with ctrl := .enRun (some (pre ++ [fillerDigit w])), reqId := s.reqId + 1 } := by
      simp only [takeWord, hk, encodeDraw]
    rw [randomAnswers, takeTurns_cons (takeTurn_randomAnswer w hq hr), htake]
    refine (ih (s := { s with ctrl := .enRun (some (pre ++ [fillerDigit w])), reqId := s.reqId + 1 })
      (pre := pre ++ [fillerDigit w]) hr rfl ?_).trans ?_
    · rw [List.length_append, List.length_singleton, Nat.add_assoc, Nat.add_comm 1]; exact hl
    · simp only [List.append_assoc, List.singleton_append, List.map_cons, List.length_cons]
      congr 2
      omega

/-- The block is written once its filler is complete, for a written message (R201). -/
theorem takeTurn_enRun_full {s : State} {filler msg : List Byte} (hr : s.rst = false)
    (hk : s.ctrl = .enRun (some filler)) (hf : filler.length = s.fillerLen) (hm : s.MessageIs msg) :
    takeTurn .controller s = .next (complete { s.writeBuf .blk (paddedBlock filler msg) with
      blkLen := BitVec.ofNat 16 s.cfg.dcap }) := by
  obtain ⟨hlen, hbytes⟩ := hm
  rw [takeTurn_controller hr]
  simp only [controllerStep, hk, if_neg hf.not_lt, encodeFinish, hlen, hbytes, commandRead_map_some]

/-- The whole next state of an ENCODE command: the block with its length, the request numbers used, and
the outcome fields. -/
def State.afterEncode (s : State) (block : List Byte) (id : Nat) : State :=
  { s.writeBuf .blk block with
    lastOp := 4, done := true, err := false, errCode := 0, subcause := 0, errPos := 0
    doneIP := true, blkLen := BitVec.ofNat 16 s.cfg.dcap, reqId := id }

theorem State.Ready.afterEncode {s : State} (h : s.Ready) (block : List Byte) (id : Nat) :
    (s.afterEncode block id).Ready := ⟨h.idle, h.running⟩

theorem complete_withFiller {s : State} (hk : s.ctrl = .idle) (filler block : List Byte) (id : Nat) :
    complete { (s.withFiller filler id).writeBuf .blk block with
      blkLen := BitVec.ofNat 16 s.cfg.dcap } = s.afterEncode block id := by
  cases s
  cases hk
  rfl

section
variable {s : State} {msg : List Byte} {ws : List Word} (hs : s.Ready) (hm : s.MessageIs msg)
  (hl : msg.length ≤ s.cfg.lmax) (hw : ws.length = s.cfg.dcap - 9 - 3 * msg.length)
include hs hm hl hw

/-- The turns that complete an accepted ENCODE of a written message: the length check, the answers, and
the write of the block. -/
theorem takeTurns_startedState_encode :
    takeTurns ([.controller] ++ randomAnswers s.reqId ws ++ [.controller])
      (startedState .encode (.enRun none) s) =
      .next (s.afterEncode (paddedBlock (ws.map fillerDigit) msg) (s.reqId + ws.length)) := by
  have hF : ws.length = s.fillerLen := by rw [State.fillerLen, hm.1, hw]
  have hcheck : takeTurn .controller (startedState .encode (.enRun none) s) =
      .next (s.withFiller [] s.reqId) :=
    (takeTurn_enRun_none (s := startedState .encode (.enRun none) s) hs.running rfl).trans
      (congrArg Host.Outcome.next (encodeCheck_of_le (hm.1.trans_le hl)))
  have hdraw : takeTurns (randomAnswers s.reqId ws) (s.withFiller [] s.reqId) =
      .next (s.withFiller (ws.map fillerDigit) (s.reqId + ws.length)) :=
    takeTurns_draw_filler (s := s.withFiller [] s.reqId) hs.running rfl
      ((Nat.zero_add _).trans hF)
  have hwrite : takeTurn .controller (s.withFiller (ws.map fillerDigit) (s.reqId + ws.length)) =
      .next (s.afterEncode (paddedBlock (ws.map fillerDigit) msg) (s.reqId + ws.length)) :=
    (takeTurn_enRun_full (s := s.withFiller _ _) hs.running rfl
      ((List.length_map _).trans hF) hm).trans
      (congrArg Host.Outcome.next (complete_withFiller hs.idle _ _ _))
  rw [List.append_assoc, List.singleton_append, takeTurns_cons hcheck, takeTurns_append_of_next hdraw]
  exact takeTurns_cons hwrite

end

/-! ## The block's digits -/

/-- The digits of a padded block with the filler of the given words (Table T42.1). -/
def blockDigits (ws : List Word) (msg : List Byte) : List Nat :=
  [1, 0, 0, 0, 0, 2] ++ ws.map (fun w => 1 + w.toNat % 9) ++ [0, 0, 0] ++ msg.flatMap byteDigits

/-- The bytes of a padded block are the characters of its digits. -/
theorem paddedBlock_eq_map_chr (ws : List Word) (msg : List Byte) :
    paddedBlock (ws.map fillerDigit) msg = (blockDigits ws msg).map chr := by
  simp only [paddedBlock, blockDigits, List.map_append, List.map_flatMap, List.map_map]
  rfl

theorem lt_of_mem_blockDigits {ws : List Word} {msg : List Byte} {d : Nat}
    (h : d ∈ blockDigits ws msg) : d < 10 := by
  simp only [blockDigits, List.mem_append, List.mem_map, List.mem_flatMap] at h
  obtain ((h | ⟨w, -, rfl⟩) | h) | ⟨b, -, h⟩ := h
  · exact (show ∀ d ∈ [1, 0, 0, 0, 0, 2], d < 10 by decide) d h
  · omega
  · exact (show ∀ d ∈ [0, 0, 0], d < 10 by decide) d h
  · exact lt_of_mem_byteDigits h

/-- The filler of a padded block holds no 0, so the block decodes to its message (R215). -/
theorem decodeDigits_blockDigits (ws : List Word) (msg : List Byte) :
    decodeDigits (blockDigits ws msg) = .ok msg := by
  refine decodeDigits_block rfl (fun d hd => ?_) msg
  obtain ⟨w, -, rfl⟩ := List.mem_map.mp hd
  omega

/-! ## The command -/

/-- The block of a message with its filler fills BLK. -/
theorem afterEncode_blk {s : State} {filler msg : List Byte} (hc : s.cfg.wf = true)
    (hl : msg.length ≤ s.cfg.lmax) (hf : filler.length = s.cfg.dcap - 9 - 3 * msg.length) (id : Nat) :
    (s.afterEncode (paddedBlock filler msg) id).bufBytes .blk s.cfg.dcap =
      (paddedBlock filler msg).map some := by
  rw [← bufBytes_writeBuf s .blk, length_paddedBlock_of_filler hc hl hf]
  rfl

theorem afterEncode_blkLen {s : State} (hc : s.cfg.wf = true) (block : List Byte) (id : Nat) :
    (s.afterEncode block id).blkLen.toNat = s.cfg.dcap := toNat_ofNat_of_le_dcap hc le_rfl

/-- Settles O42: the block fills BLK, and its bytes are those of Table T42.1. -/
theorem encodeBuildsPaddedBlock : Obligations.EncodeBuildsPaddedBlock := by
  intro s msg ws hinv hs hm hl hw
  have hf : (ws.map fillerDigit).length = s.cfg.dcap - 9 - 3 * msg.length :=
    (List.length_map _).trans hw
  have hfill : ws.map fillerDigit = ws.map fun w => BitVec.ofNat 8 (0x31 + w.toNat % 9) :=
    List.map_congr_left fun w _ => congrArg (BitVec.ofNat 8) (Nat.add_assoc 0x30 1 _).symm
  have hblk := afterEncode_blk hinv.cfg hl hf (s.reqId + ws.length)
  refine ⟨_, _, exec_of_firstState rfl (busy_of_idle hs.idle),
    takeTurns_startedState_encode hs hm hl hw, hblk.trans ?_, fun a ha => ?_,
    afterEncode_blkLen hinv.cfg _ _, rfl⟩
  · rw [hfill]; rfl
  · rw [← length_paddedBlock_of_filler hinv.cfg hl hf] at ha
    exact read_writeBuf_of_outside (b := .blk) s ha

/-- Settles O48: the block of ENCODE is written digits that decode to the message. -/
theorem encodeDecodeRoundTrip : Obligations.EncodeDecodeRoundTrip := by
  intro s msg ws hinv hs hm hl hw
  refine ⟨_, _, exec_of_firstState rfl (busy_of_idle hs.idle),
    takeTurns_startedState_encode hs hm hl hw, rfl, hs.afterEncode _ _, fun v hv hcfg hn hb => ?_⟩
  have hcfg : v.cfg = s.cfg := hcfg
  have hn : v.blkLen.toNat = s.cfg.dcap :=
    (congrArg BitVec.toNat hn).trans (afterEncode_blkLen hinv.cfg _ _)
  have hdigits : v.bufBytes .blk v.blkLen.toNat = (blockDigits ws msg).map fun d => some (chr d) := by
    rw [hn, hb, afterEncode_blk hinv.cfg hl ((List.length_map _).trans hw), paddedBlock_eq_map_chr,
      List.map_map]
    rfl
  exact ⟨startedState .decode .deRun v, v.afterDecode msg,
    exec_of_firstState rfl (busy_of_idle hv.idle),
    takeTurn_startedState_decode hv (by rw [hn, hcfg]) (fun _ => lt_of_mem_blockDigits) hdigits
      (decodeDigits_blockDigits ws msg),
    rfl, rfl, bufBytes_writeBuf v .msg msg, afterDecode_msgLen (hcfg ▸ hinv.cfg) (hcfg ▸ hl)⟩

end Sys2Proof.Machine
end

section
/-!
The numbers of the service requests: a reset that withdraws a request moves the number on, and no move
takes it back (spec/43_control.md R241; spec/10_state.md Table T10.6).
-/

namespace Sys2Proof.Machine

/-- The withdrawn request's number is behind the number after the reset. -/
theorem reqId_lt_resetRegs {s : State} (h : s.request.isSome = true) :
    s.reqId < s.resetRegs.reqId :=
  (Nat.lt_succ_self _).trans_eq (if_pos h).symm

theorem reqId_le_resetRegs (s : State) : s.reqId ≤ s.resetRegs.reqId := by
  cases h : s.request.isSome
  case true => exact (reqId_lt_resetRegs h).le
  case false => exact (if_neg (by simp [h])).ge

@[simp] theorem startedState_reqId (i : Instr) (c : Ctrl) (s : State) :
    (startedState i c s).reqId = s.reqId := by
  cases i <;> rfl

theorem Quiet.reqId_eq {s t : State} (h : Quiet s t) : t.reqId = s.reqId := by
  unfold Quiet at h; rw [h]

theorem Passive.reqId_eq {s t : State} (h : Passive s t) : t.reqId = s.reqId := by
  rw [h.frame]

/-- Of the accepted commands only SRESET moves the number. -/
theorem Accepts.reqId_le {i : Instr} {s t : State} (h : Accepts i s t) : s.reqId ≤ t.reqId := by
  rcases h with ⟨-, rfl⟩ | ⟨-, -, rfl⟩ | ⟨c, -, -, rfl⟩
  · exact reqId_le_resetRegs s
  · exact le_rfl
  · rw [startedState_reqId]

theorem hostTurn_reqId_le {s t : State} (h : hostTurn s = .next t) : s.reqId ≤ t.reqId := by
  rcases hostTurn_effect h with hp | ⟨v, s0, -, hq, ha⟩
  · exact hp.reqId_eq.ge
  · exact hq.reqId_eq.ge.trans ha.reqId_le

theorem Move.reqId_le {s t : State} (h : Move s t) : s.reqId ≤ t.reqId := by
  cases h with
  | host h => exact hostTurn_reqId_le h
  | controller _ h => exact (controllerStep_keeps h).2.ge
  | word w _ => rw [(takeWord_keeps w _).2]; exact Nat.le_succ _
  | prime e r _ => rw [(takePrime_keeps e r _).2]; exact Nat.le_succ _
  | assert | pending | plan => exact le_rfl
  | release _ => exact reqId_le_resetRegs s

theorem Moves.reqId_le {s t : State} (h : Moves s t) : s.reqId ≤ t.reqId :=
  h.lift (R := fun s t => s.reqId ≤ t.reqId) (fun _ => le_rfl) (fun _ _ _ => le_trans)
    fun _ _ => Move.reqId_le

/-- Settles O54: a step is a sequence of moves, and both resets move a withdrawn request's number on. -/
theorem withdrawnRequestNeverMatches : Obligations.WithdrawnRequestNeverMatches := by
  refine ⟨fun s t h => (moves_of_step h).reqId_le, fun s t hq h => ?_, fun s t hq hr h => ?_⟩
  · cases h
    exact reqId_lt_resetRegs hq
  · cases h
    rw [if_pos hr]
    exact reqId_lt_resetRegs hq

end Sys2Proof.Machine
end

section
/-!
NOP and the reserved opcodes (spec/43_control.md R240, R242).
-/

namespace Sys2Proof.Machine

/-- Every command but SRESET is rejected by a busy block (spec/70_reset_and_hazards.md R311). -/
theorem exec_of_busy {i : Instr} {s : State} (hi : i ≠ .sreset) (hb : s.busy = true) :
    exec i s = .next { s with rej := true } := by
  rcases exec_cases i s with ⟨hi', -⟩ | ⟨-, -, he⟩ | ⟨-, hb', -⟩ | ⟨-, hb', -⟩ | ⟨_, -, hb', -⟩
  · exact absurd hi' hi
  · exact he
  all_goals cases hb.symm.trans hb'

/-- Settles O25: an idle block passes NOP, and a busy one rejects it. -/
theorem nopDoesNothing : Obligations.NopDoesNothing :=
  fun _ => ⟨issue_idle, exec_of_busy nofun⟩

theorem reserved_of_mem {i : Instr} (h : i ∈ [Instr.reserved6, .reserved7, .reserved8, .reserved9,
    .reservedA, .reservedB, .reservedC, .reservedD, .reservedE]) : i.reserved = true := by
  revert i; decide

/-- The error at the issue leaves the controller of an idle block where it is. -/
theorem raiseErr_accept_of_idle {s : State} (hk : s.ctrl = .idle) (i : Instr) :
    raiseErr .illegalCmd 0 (s.accept i) = { s with
      lastOp := i.op, done := false, err := true, errCode := 1, subcause := 0, errPos := 0
      errIP := true } := by
  rw [raiseErr, ← hk]
  rfl

/-- Settles O26: an idle block completes a reserved opcode at its issue with the error, and a busy one
rejects it. -/
theorem reservedOpcodesComplete : Obligations.ReservedOpcodesComplete := by
  intro s i hi
  have hres : i.reserved = true := reserved_of_mem hi
  refine ⟨fun hb => ?_, exec_of_busy (by rintro rfl; cases hres)⟩
  have hk : s.ctrl = .idle := (busy_eq_false_iff s).mp hb
  exact ⟨_, exec_of_reserved hres hb, raiseErr_accept_of_idle hk i, rfl,
    fun hie => by simp [State.irq, hie]⟩

end Sys2Proof.Machine
end

section
/-!
A command that fails, or that has not completed yet, has changed no result (spec/60_exceptions.md R262,
R263).
-/

namespace Sys2Proof.Machine

/-- The registers and buffers that only the success of a command may change (spec/60_exceptions.md
R263). -/
def KeepsResults (s u : State) : Prop :=
  u.N = s.N ∧ u.D = s.D ∧ u.X = s.X ∧ u.Y = s.Y ∧ u.G = s.G ∧ u.A = s.A ∧ u.B = s.B ∧
    u.mem = s.mem ∧ u.msgLen = s.msgLen ∧ u.blkLen = s.blkLen

theorem KeepsResults.refl (s : State) : KeepsResults s s :=
  ⟨rfl, rfl, rfl, rfl, rfl, rfl, rfl, rfl, rfl, rfl⟩

theorem GoesOn.keepsResults {s u : State} (h : GoesOn s u) : KeepsResults s u := by
  rw [h.frame]; exact .refl s

theorem Fails.keepsResults {s u : State} (h : Fails s u) : KeepsResults s u := by
  obtain ⟨c, pos, rfl⟩ := h.raised
  exact .refl s

theorem Completes.done {s u : State} (h : Completes s u) : u.done = true := by
  rw [h.frame]

/-- A turn of the controller changes a result only where it completes the command. -/
theorem controllerTurn_keepsResults {s u : State} (h : controllerTurn s = .next u)
    (hd : u.done = false) : KeepsResults s u := by
  rcases controllerTurn_effect h with hg | hf | hc
  · exact hg.keepsResults
  · exact hf.keepsResults
  · cases hd.symm.trans hc.done

/-- An answer changes the results no more than taking it does. -/
theorem answer_keepsResults {take : State → State} (ht : ∀ s, KeepsResults s (take s)) (tag : Nat)
    (prime : Bool) (s : State) : KeepsResults s (answer tag prime take s) := by
  rcases answer_cases tag prime take s with he | ⟨-, -, he⟩ <;> rw [he]
  · exact .refl s
  · exact ht { s with reqId := s.reqId + 1 }

theorem takePrime_keepsResults (e : Bool) (r : Nat) (s : State) : KeepsResults s (takePrime e r s) :=
  (takePrime_effect e r s).elim GoesOn.keepsResults Fails.keepsResults

/-- Settles O51: a command goes on or fails without touching a result, and what changes one sets DONE. -/
theorem failingCommandKeepsResults : Obligations.FailingCommandKeepsResults := by
  rintro s u turn (rfl | ⟨tag, w, rfl⟩ | ⟨tag, e, r, rfl⟩) h hd
  · exact controllerTurn_keepsResults h hd
  · cases h
    exact answer_keepsResults (fun s => (takeWord_goesOn w s).keepsResults) tag false s
  · cases h
    exact answer_keepsResults (takePrime_keepsResults e r) tag true s

end Sys2Proof.Machine
end

section
/-!
The interrupt output: which moves can lower it (spec/60_exceptions.md R270).
-/

namespace Sys2Proof.Machine

/-- The writes of the host that can lower irq: to IRQ_EN, to IRQ_STAT, and SRESET. -/
def LowersIrq (l : Loc) (v : Word) : Prop :=
  l = .irqEn ∨ l = .irqStat ∨ (l = .cmd ∧ decode v = .sreset)

/-- While the enables stay, pending bits that do not fall hold irq. -/
theorem irq_of_pending_imp {s t : State} (h : s.irq = true) (hde : t.doneIE = s.doneIE)
    (hee : t.errIE = s.errIE) (hd : s.doneIP = true → t.doneIP = true)
    (he : s.errIP = true → t.errIP = true) : t.irq = true := by
  simp only [State.irq, Bool.or_eq_true, Bool.and_eq_true, hde, hee] at h ⊢
  exact h.imp (And.imp_left hd) (And.imp_left he)

/-! ## The block's own moves raise pending bits only -/

theorem GoesOn.irq_eq {s t : State} (h : GoesOn s t) : t.irq = s.irq := by
  rw [h.frame]; rfl

theorem irq_raiseErr (c : ErrCause) (pos : Nat) {s : State} (h : s.irq = true) :
    (raiseErr c pos s).irq = true :=
  irq_of_pending_imp h rfl rfl id fun _ => rfl

theorem Fails.irq {s t : State} (h : Fails s t) (hs : s.irq = true) : t.irq = true := by
  obtain ⟨c, pos, rfl⟩ := h.raised
  exact irq_raiseErr c pos hs

theorem Completes.irq {s t : State} (h : Completes s t) (hs : s.irq = true) : t.irq = true := by
  rw [h.frame]
  exact irq_of_pending_imp hs rfl rfl (fun _ => rfl) id

theorem controllerTurn_irq {s t : State} (h : controllerTurn s = .next t) (hs : s.irq = true) :
    t.irq = true := by
  rcases controllerTurn_effect h with hg | hf | hc
  · exact hg.irq_eq.trans hs
  · exact hf.irq hs
  · exact hc.irq hs

theorem takePrime_irq (e : Bool) (r : Nat) {s : State} (hs : s.irq = true) :
    (takePrime e r s).irq = true := by
  rcases takePrime_effect e r s with hg | hf
  · exact hg.irq_eq.trans hs
  · exact hf.irq hs

theorem setWins_irq (s c : State) {t : State} (ht : t.irq = true) : (setWins s c t).irq = true := by
  unfold setWins
  split
  · refine irq_of_pending_imp ht rfl rfl (fun h => ?_) (fun h => ?_) <;> simp [h]
  · exact ht

/-! ## The host's turn -/

theorem Quiet.irq_eq {s t : State} (h : Quiet s t) : t.irq = s.irq := by
  unfold Quiet at h; rw [h]; rfl

theorem writeOperand_irq {s : State} {write : State → State} (h : (write s).irq = s.irq) :
    (s.writeOperand write).irq = s.irq := by
  unfold State.writeOperand
  split
  · rfl
  · exact h

/-- A write to a location other than IRQ_EN and IRQ_STAT leaves irq. -/
theorem writeLoc_irq {l : Loc} (hen : l ≠ .irqEn) (hstat : l ≠ .irqStat) (s : State) (v : Word) :
    (s.writeLoc l v).irq = s.irq := by
  cases l with
  | irqEn => exact absurd rfl hen
  | irqStat => exact absurd rfl hstat
  | msgLen | blkLen => exact writeOperand_irq rfl
  | big r i =>
    simp only [State.writeLoc]
    split
    · exact writeOperand_irq (by cases r <;> rfl)
    · rfl
  | buf b j =>
    refine writeOperand_irq ?_
    obtain ⟨m, hm, -⟩ := writeBufWord_spec s b j v
    rw [hm]; rfl
  | _ => rfl

/-- Of the accepted commands only SRESET can lower irq. -/
theorem Accepts.irq {i : Instr} {s t : State} (h : Accepts i s t) (hs : s.irq = true) :
    t.irq = true ∨ i = .sreset := by
  rcases h with ⟨hi, -⟩ | ⟨-, -, rfl⟩ | ⟨c, -, -, rfl⟩
  · exact .inr hi
  · exact .inl (irq_raiseErr _ _ hs)
  · left; cases i <;> exact hs

theorem exec_irq {i : Instr} {s t : State} (h : exec i s = .next t) (hs : s.irq = true) :
    t.irq = true ∨ i = .sreset := by
  rcases exec_effect h with hrej | ha
  · left; rw [hrej]; exact hs
  · exact ha.irq hs

/-- The host's turn holds irq, or is one of the writes that can lower it. -/
theorem hostTurn_irq {s t : State} (h : hostTurn s = .next t) (hs : s.irq = true) :
    t.irq = true ∨ ∃ l v, LowersIrq l v ∧ s.NextWrite l v := by
  rcases hostTurn_cases h with hq | ⟨a, l, v, rest, s0, hh, -, hb, hw, h4, hl, hq, -, hx⟩
  · exact .inl (hq.irq_eq.trans hs)
  · have hnext : s.NextWrite l v := ⟨a, rest, hh, hb, hw, h4, hl⟩
    have hs0 : s0.irq = true := hq.irq_eq.trans hs
    by_cases hlow : LowersIrq l v
    · exact .inr ⟨l, v, hlow, hnext⟩
    · simp only [LowersIrq, not_or, not_and] at hlow
      obtain ⟨hen, hstat, hcmd⟩ := hlow
      rcases writeHost_cases hx with ⟨hl, he⟩ | ⟨-, rfl⟩
      · exact .inl ((exec_irq he hs0).resolve_right (hcmd hl))
      · exact .inl ((writeLoc_irq hen hstat s0 v).trans hs0)

/-! ## Every step -/

/-- A step holds irq, or is the release of the reset input or a write that can lower irq. -/
theorem step_irq {s t : State} (h : step s = .next t) (hirq : s.irq = true) :
    t.irq = true ∨ s.Releases ∨ ∃ l v, LowersIrq l v ∧ s.HostWrites l v := by
  obtain ⟨s', hs, hc⟩ := step_cases h
  generalize s'.turns = ts at hs
  subst hs
  have fromHost {u v : State} (hm : s.HostMoves) (hu : hostTurn u = .next v) (hi : u.irq = true)
      (hh : u.host = s.host) (hcfg : u.cfg = s.cfg) :
      v.irq = true ∨ ∃ l w, LowersIrq l w ∧ s.HostWrites l w := by
    rcases hostTurn_irq hu hi with he | ⟨l, w, hlow, hw⟩
    · exact .inl he
    · exact .inr ⟨l, w, hlow, hm, (nextWrite_congr hh hcfg l w).mp hw⟩
  rcases hc with ⟨hm, h1⟩ | h1 | ⟨hm, -, u, h1, h2⟩ | ⟨hm, -, u, v, h1, h2, rfl⟩ | ⟨w, -, rfl⟩ |
    ⟨e, r, -, rfl⟩ | rfl | rfl | ⟨hr, -⟩
  · exact (fromHost hm h1 hirq rfl rfl).imp_right .inr
  · exact .inl (controllerTurn_irq h1 hirq)
  · exact (fromHost hm h1 hirq rfl rfl).imp (controllerTurn_irq h2) .inr
  · have hk := (controllerTurn_keeps h1).1
    exact (fromHost hm h2 (controllerTurn_irq h1 hirq) hk.host hk.cfg).imp (setWins_irq _ u) .inr
  · exact .inl ((takeWord_goesOn w _).irq_eq.trans hirq)
  · exact .inl (takePrime_irq e r hirq)
  · exact .inl hirq
  · exact .inl hirq
  · exact .inr (.inl hr)

/-- Settles O21: every step but a reset and the two writes that R270 names holds irq. -/
theorem irqLine : Obligations.IrqLine := by
  refine ⟨fun c => rfl, fun s => ?_, fun s t h hs ht => ?_⟩
  · simp only [State.irq, Bool.or_eq_true, Bool.and_eq_true]
  · rcases step_irq h hs with he | hr | ⟨l, v, rfl | rfl | ⟨rfl, hv⟩, hw⟩
    · cases ht.symm.trans he
    · exact .inl (.inl hr)
    · exact .inr ⟨v, .inl hw⟩
    · exact .inr ⟨v, .inr hw⟩
    · exact .inl (.inr ⟨v, hw, hv⟩)

end Sys2Proof.Machine
end

section
/-!
The busy window (spec/70_reset_and_hazards.md R310-R313): what a host write, a command and a host read do
while a command executes.
-/

namespace Sys2Proof.Machine

/-! ## Writes and commands -/

/-- An operand write leaves only WIGN (R310). -/
theorem writeOperand_of_busy {s : State} (hb : s.busy = true) (write : State → State) :
    s.writeOperand write = { s with wign := true } := if_pos hb

/-- A busy block takes no write of an operand, whichever command executes (R310). -/
theorem writeHost_operand_of_busy {s : State} {l : Loc} (hb : s.busy = true) (v : Word)
    (h : l ∈ [.msgLen, .blkLen] ∨ (∃ b j, l = .buf b j) ∨
      ∃ r i, l = .big r i ∧ r ∈ [BigName.A, .B, .P, .Q]) :
    writeHost l v s = .next { s with wign := true } := by
  rcases h with h | ⟨b, j, rfl⟩ | ⟨r, i, rfl, hr⟩
  · simp only [List.mem_cons, List.not_mem_nil, or_false] at h
    rcases h with rfl | rfl <;> simp [writeHost, State.writeLoc, writeOperand_of_busy hb]
  · simp [writeHost, State.writeLoc, writeOperand_of_busy hb]
  · have hw : r.hostWritable = true := by
      revert r
      decide
    simp [writeHost, State.writeLoc, writeOperand_of_busy hb, hw]

/-- Settles O10: a legal write is `writeHost` of its location, class by class. -/
theorem busyWindowWrites : Obligations.BusyWindowWrites := by
  intro s off l v hb hr ho h4 hl write ok
  have hwrite : write = writeHost l v ok := busAccess_write v hr ho h4 hl
  rw [hwrite]
  refine ⟨writeHost_operand_of_busy (s := ok) hb v, ?_, ?_, ?_, writeHost_readOnly v ok, ?_⟩ <;>
    rintro rfl <;> rfl

/-- Settles O11: SRESET has no busy check, and every other issue is rejected. -/
theorem busyWindowCommands : Obligations.BusyWindowCommands :=
  fun _ _ hb => ⟨fun hi => exec_of_busy hi hb, rfl⟩

/-! ## Destinations (R312) -/

theorem egcdWrites_iff (l : Loc) : egcdWrites l = true ↔
    l = .iterCnt ∨ ∃ r ∈ [BigName.X, .Y, .G], ∃ i, l = .big r i := by
  cases l with
  | big r i => cases r <;> simp [egcdWrites]
  | _ => simp [egcdWrites]

theorem keyWrites_iff (l : Loc) : keyWrites l = true ↔
    l = .iterCnt ∨ l = .retryCnt ∨ ∃ r ∈ [BigName.P, .Q, .PHI, .N, .D], ∃ i, l = .big r i := by
  cases l with
  | big r i => cases r <;> simp [keyWrites]
  | _ => simp [keyWrites]

theorem encodeWrites_iff (l : Loc) :
    encodeWrites l = true ↔ l = .blkLen ∨ ∃ j, l = .buf .blk j := by
  cases l with
  | buf b j => cases b <;> simp [encodeWrites]
  | _ => simp [encodeWrites]

theorem decodeWrites_iff (l : Loc) :
    decodeWrites l = true ↔ l = .msgLen ∨ ∃ j, l = .buf .msg j := by
  cases l with
  | buf b j => cases b <;> simp [decodeWrites]
  | _ => simp [decodeWrites]

/-- A location is a destination of the command that writes it, while that command executes. -/
theorem isDestination_iff (s : State) (l : Loc) : s.isDestination l = true ↔
    (s.ctrl.command = some .egcd ∧ egcdWrites l = true) ∨
    ((s.ctrl.command = some .keygen ∨ s.ctrl.command = some .derive) ∧ keyWrites l = true) ∨
    (s.ctrl.command = some .encode ∧ encodeWrites l = true) ∨
    (s.ctrl.command = some .decode ∧ decodeWrites l = true) := by
  unfold State.isDestination
  cases s.ctrl.command with
  | none => simp
  | some i => cases i <;> simp [writesLoc]

/-- A read of a destination is the next free value. -/
theorem read_of_isDestination {s : State} {l : Loc} (h : s.isDestination l = true) :
    s.readLoc l = Config.freeWord s.draws ∧ s.readDraws l = true :=
  ⟨if_pos h, by simp [State.readDraws, h]⟩

/-- Settles O12: no outcome is recorded in the busy window, and the destinations are the lists of R312. -/
theorem busyWindowReads : Obligations.BusyWindowReads := by
  intro s hinv hb
  obtain ⟨hdone, herr, -, -, hpos⟩ := hinv.flags.noError_of_busy hb
  obtain ⟨hb0, hb1, hb2, -⟩ := statusWord_fields s
  obtain ⟨-, -, -, -, -, hcurrent⟩ := readsReturnCurrentValues s
  have hread : s.readLoc .errPos = s.errPos.setWidth 32 := readLoc_control (by simp) s
  refine ⟨?_, ?_, ?_, ?_, fun l => ?_, fun l => read_of_isDestination, hcurrent⟩
  · rw [readLoc_status, hb0, hb]
  · rw [readLoc_status, hb1, hdone]
  · rw [readLoc_status, hb2, herr]
  · rw [hread, hpos]
    rfl
  · rw [isDestination_iff, egcdWrites_iff, keyWrites_iff, encodeWrites_iff, decodeWrites_iff]

end Sys2Proof.Machine
end

section
/-!
What a reset leaves alone: the agents outside the block (spec/43_control.md R241,
spec/70_reset_and_hazards.md R300).
-/

namespace Sys2Proof.Machine

/-- The release of reset does a hardware reset where the reset input is asserted, and nothing otherwise. -/
theorem releaseReset_cases {s t : State} (h : takeTurn .releaseReset s = .next t) :
    s.rst = true ∧ t = { s.hardReset with rst := false } ∨ s.rst = false ∧ t = s := by
  cases h
  split
  · exact .inl ⟨‹_›, rfl⟩
  · exact .inr ⟨eq_false_of_ne_true ‹_›, rfl⟩

/-- Settles O24: by the frame of the soft reset, and of the hardware reset at a release; a release with no
reset asserted changes nothing. -/
theorem resetKeepsAgents : Obligations.ResetKeepsAgents := by
  rintro s t (h | h)
  · cases h
    exact ⟨softReset_host s, softReset_turns s, softReset_trace s, softReset_draws s⟩
  · rcases releaseReset_cases h with ⟨-, rfl⟩ | ⟨-, rfl⟩
    · exact ⟨hardReset_host s, hardReset_turns s, hardReset_trace s, hardReset_draws s⟩
    · exact ⟨rfl, rfl, rfl, rfl⟩

end Sys2Proof.Machine
end
